-- ==== Sys2Proof/Word.lean ====
section
/-!
DEFINITION. The machine's word types: a byte (a V register, a memory cell, a timer), a 16-bit word (an instruction, the
index register, the program counter, a stack entry), the 4-bit index of a register or a key, and the 12-bit address of
one of the 4096 memory cells (spec 00_scope.md section 5, 10_state.md R10 to R15, 20_memory.md R40).
-/
namespace Sys2Proof

/-- An 8-bit value: a V register, a timer, a memory cell, an immediate `kk` (R10, R15, R40, R63). -/
abbrev Byte := BitVec 8

/-- A 16-bit value: an instruction word, `I`, `pc`, a stack entry, `fault_info` (R12, R13, R14, R20, R60). -/
abbrev Word := BitVec 16

/-- A 4-bit field: a register index, a key code, the row count `n` of a draw (R61, R161). -/
abbrev Nibble := BitVec 4

/-- The address of an existing memory cell, 0x000 to 0xFFF (R40), and the 12-bit operand `nnn` (R61). A byte that does not
exist has no address of this type: an access that would leave the memory is turned away before one is formed (R46). -/
abbrev Addr := BitVec 12

end Sys2Proof
end

