-- ==== Sys2Proof/Machine/Flags.lean ====
section
/-!
DEFINITION. The values written to VF (spec 10_state.md R11; 41_alu.md R102). Each is the byte 0 or 1. The collision flag of DRW is
`flagOf` of the draw's `hit` (44_display.md R141).
-/
namespace Sys2Proof.Machine

/-- A flag as the byte VF gets: 1 or 0. -/
def flagOf (b : Bool) : Byte := if b then 1 else 0

/-- The carry of ADD Vx,Vy: the true sum is greater than 255 (R102, R108). -/
def carryFlag (a b : Byte) : Byte := flagOf (a.toNat + b.toNat > 255)

/-- The not-borrow of a subtraction: minuend >= subtrahend (R102, R109, R111). -/
def notBorrowFlag (minuend subtrahend : Byte) : Byte := flagOf (minuend.toNat ≥ subtrahend.toNat)

/-- The bit SHR shifts out, bit 0 of the source (R110). -/
def lowBitFlag (src : Byte) : Byte := flagOf (src.getLsbD 0)

/-- The bit SHL shifts out, bit 7 of the source (R112). -/
def highBitFlag (src : Byte) : Byte := flagOf (src.getLsbD 7)

end Sys2Proof.Machine
end

