-- ==== Sys2Proof/Config.lean ====
section
/-!
DEFINITION. What is fixed for the machine and never changes while it runs: the numbers of spec 00_scope.md rule R3, and the
one value the spec leaves free, the random draw (41_alu.md rule R113).
-/
namespace Sys2Proof

/-- `MEM_SIZE`: 4096 cells, addresses 0x000 to 0xFFF (R3, R40). -/
def Config.memSize : Nat := 4096

/-- `PROG_BASE`: where a program is loaded and where execution begins (R3, R41, R180). -/
def Config.progBase : Word := 0x200

/-- `ROM_MAX`: the longest program `LoadProgram` accepts, in bytes (R3, R181). -/
def Config.romMax : Nat := 3584

/-- `PC_LIMIT`: a Step does nothing when `pc` is at or above this address (R3, R80). -/
def Config.pcLimit : Nat := 4094

/-- FREE VALUE. The byte `rnd` that the n-th executed RND draws: "a value the model does not compute and on which it places no
law" (R113, decision D12, U7 `any value`). It has no body, so no proof can know a value of it; what is proved holds for
every sequence of draws. Assumption log entry 1. -/
opaque Config.rndDraw : Nat → Byte

end Sys2Proof
end

