-- ==== Sys2Proof/Syntax.lean ====
section
/-!
DEFINITION. The instruction set: one constructor for each of the 34 rows of spec/opcode_table.json (30_encoding.md rule R66, in
that order). The operands are the decode fields of rule R61, each of the width the word gives it, so that every register
index, immediate and address of this type has an encoding and every encoding's operands are of this type (R63).
-/
namespace Sys2Proof

/-- The 34 instructions of rule R66; each docstring gives the pattern, the assembler form and the rule of its meaning. -/
inductive Instr where
  /-- `00E0` CLS, clear-screen (R140) -/
  | cls
  /-- `00EE` RET, return (R86) -/
  | ret
  /-- `1nnn` JP nnn, jump (R83) -/
  | jp (nnn : Addr)
  /-- `2nnn` CALL nnn, call (R84) -/
  | call (nnn : Addr)
  /-- `3xkk` SE Vx, kk, skip-if-register-equals-immediate (R87) -/
  | seImm (x : Nibble) (kk : Byte)
  /-- `4xkk` SNE Vx, kk, skip-if-register-not-equal-immediate (R88) -/
  | sneImm (x : Nibble) (kk : Byte)
  /-- `5xy0` SE Vx, Vy, skip-if-registers-equal (R89) -/
  | seReg (x y : Nibble)
  /-- `6xkk` LD Vx, kk, load-immediate (R100) -/
  | ldImm (x : Nibble) (kk : Byte)
  /-- `7xkk` ADD Vx, kk, add-immediate (R101) -/
  | addImm (x : Nibble) (kk : Byte)
  /-- `8xy0` LD Vx, Vy, set (R104) -/
  | ldReg (x y : Nibble)
  /-- `8xy1` OR Vx, Vy (R105) -/
  | or (x y : Nibble)
  /-- `8xy2` AND Vx, Vy (R106) -/
  | and (x y : Nibble)
  /-- `8xy3` XOR Vx, Vy (R107) -/
  | xor (x y : Nibble)
  /-- `8xy4` ADD Vx, Vy (R108) -/
  | addReg (x y : Nibble)
  /-- `8xy5` SUB Vx, Vy (R109) -/
  | sub (x y : Nibble)
  /-- `8xy6` SHR Vx, Vy (R110) -/
  | shr (x y : Nibble)
  /-- `8xy7` SUBN Vx, Vy (R111) -/
  | subn (x y : Nibble)
  /-- `8xyE` SHL Vx, Vy (R112) -/
  | shl (x y : Nibble)
  /-- `9xy0` SNE Vx, Vy, skip-if-registers-not-equal (R90) -/
  | sneReg (x y : Nibble)
  /-- `Annn` LD I, nnn, set-index (R130) -/
  | ldI (nnn : Addr)
  /-- `Bnnn` JP V0, nnn, jump-with-offset (R91) -/
  | jpV0 (nnn : Addr)
  /-- `Cxkk` RND Vx, kk, random-and (R113) -/
  | rnd (x : Nibble) (kk : Byte)
  /-- `Dxyn` DRW Vx, Vy, n, draw-sprite (R141) -/
  | drw (x y n : Nibble)
  /-- `Ex9E` SKP Vx, skip-if-key-pressed (R120) -/
  | skp (x : Nibble)
  /-- `ExA1` SKNP Vx, skip-if-key-not-pressed (R121) -/
  | sknp (x : Nibble)
  /-- `Fx07` LD Vx, DT, get-delay-timer (R123) -/
  | ldVxDt (x : Nibble)
  /-- `Fx0A` LD Vx, K, wait-for-key (R126) -/
  | ldVxK (x : Nibble)
  /-- `Fx15` LD DT, Vx, set-delay-timer (R124) -/
  | ldDtVx (x : Nibble)
  /-- `Fx18` LD ST, Vx, set-sound-timer (R125) -/
  | ldStVx (x : Nibble)
  /-- `Fx1E` ADD I, Vx, add-to-index (R131) -/
  | addI (x : Nibble)
  /-- `Fx29` LD F, Vx, index-to-font-glyph (R132) -/
  | ldF (x : Nibble)
  /-- `Fx33` LD B, Vx, store-BCD (R133) -/
  | ldB (x : Nibble)
  /-- `Fx55` LD [I], Vx, register-dump (R134) -/
  | dump (x : Nibble)
  /-- `Fx65` LD Vx, [I], register-load (R135) -/
  | load (x : Nibble)
deriving DecidableEq, Repr

end Sys2Proof
end

