-- ==== Sys2Proof/WellFormed.lean ====
section
/-!
DEFINITION. What is well formed: an operand as it is written in an assembler line (spec 30_encoding.md R70: `Vx` is V0 to VF,
`nnn` a 12-bit number, `kk` an 8-bit number, `n` a 4-bit number), an instruction (all of its operands are), and a program
image handed to `LoadProgram` (70_reset_and_hazards.md R181: at most 3584 bytes, no header).
-/
namespace Sys2Proof

/-- An operand as a number on an assembler line, before it is known to fit its field (R61, R70). -/
inductive Operand where
  /-- a register `V0` to `VF`, from `x` or `y` -/
  | reg (n : Nat)
  /-- an immediate `kk` -/
  | imm (n : Nat)
  /-- an address `nnn` -/
  | addr (n : Nat)
  /-- a row count `n` -/
  | rows (n : Nat)
deriving DecidableEq, Repr

/-- The operand fits the field of rule R61 that carries it (R63: no other restriction exists). -/
def Operand.wf : Operand → Bool
  | .reg n => n < 16
  | .imm n => n < 256
  | .addr n => n < 4096
  | .rows n => n < 16

/-- The operands of an instruction, in the assembler's order, destination first (R62, R70). -/
def Instr.operands : Instr → List Operand
  | .cls | .ret => []
  | .jp nnn | .call nnn | .ldI nnn | .jpV0 nnn => [.addr nnn.toNat]
  | .seImm x kk | .sneImm x kk | .ldImm x kk | .addImm x kk | .rnd x kk => [.reg x.toNat, .imm kk.toNat]
  | .seReg x y | .sneReg x y | .ldReg x y => [.reg x.toNat, .reg y.toNat]
  | .or x y | .and x y | .xor x y | .addReg x y | .sub x y => [.reg x.toNat, .reg y.toNat]
  | .shr x y | .subn x y | .shl x y => [.reg x.toNat, .reg y.toNat]
  | .drw x y n => [.reg x.toNat, .reg y.toNat, .rows n.toNat]
  | .skp x | .sknp x | .ldVxDt x | .ldVxK x | .ldDtVx x | .ldStVx x => [.reg x.toNat]
  | .addI x | .ldF x | .ldB x | .dump x | .load x => [.reg x.toNat]

/-- An instruction is well formed when every operand fits its field. The operand types of `Instr` make this hold of every
instruction (Sys2Proof/Laws/PerInstr.lean), as rule R63 says: "No encoding restricts a register field". -/
def Instr.wf (i : Instr) : Bool := i.operands.all Operand.wf

/-- A program image that `LoadProgram` accepts: at most 3584 bytes (R181). -/
def romWf (bytes : List Byte) : Bool := bytes.length ≤ Config.romMax

end Sys2Proof
end

