-- ==== Sys2Proof/Decode.lean ====
section
/-!
DEFINITION. Decoding and encoding (spec 30_encoding.md). The decoder is the match of rule R64 against the 34 rows of rule R66,
written row by row as the spec's table prints them; the encoder lays the fields out by the formats of rule R62; `assembly` writes
the line of rule R70.
-/
namespace Sys2Proof

/-- Operand `x`, bits 11 to 8 (R61). -/
def fieldX (op : Word) : Nibble := op.extractLsb' 8 4

/-- Operand `y`, bits 7 to 4 (R61; conflict C12: never the low nibble). -/
def fieldY (op : Word) : Nibble := op.extractLsb' 4 4

/-- Operand `n`, bits 3 to 0 (R61). -/
def fieldN (op : Word) : Nibble := op.extractLsb' 0 4

/-- Operand `kk`, bits 7 to 0 (R61). -/
def fieldKk (op : Word) : Byte := op.extractLsb' 0 8

/-- Operand `nnn`, bits 11 to 0 (R61). -/
def fieldNnn (op : Word) : Addr := op.extractLsb' 0 12

/-- One row of rule R66: a word selects it iff `op & mask = pattern` (R64), and then it is the instruction `build op`. -/
structure OpcodeRow where
  mask : Word
  pattern : Word
  build : Word → Instr

/-- Rule R64: row `r` matches iff `(op & mask_r) = match_r`. -/
def OpcodeRow.hits (r : OpcodeRow) (op : Word) : Bool := op &&& r.mask == r.pattern

/-- Rows 1 to 9 of rule R66. -/
def opcodeRowsA : List OpcodeRow :=
  [ ⟨0xFFFF, 0x00E0, fun _ => .cls⟩
  , ⟨0xFFFF, 0x00EE, fun _ => .ret⟩
  , ⟨0xF000, 0x1000, fun op => .jp (fieldNnn op)⟩
  , ⟨0xF000, 0x2000, fun op => .call (fieldNnn op)⟩
  , ⟨0xF000, 0x3000, fun op => .seImm (fieldX op) (fieldKk op)⟩
  , ⟨0xF000, 0x4000, fun op => .sneImm (fieldX op) (fieldKk op)⟩
  , ⟨0xF00F, 0x5000, fun op => .seReg (fieldX op) (fieldY op)⟩
  , ⟨0xF000, 0x6000, fun op => .ldImm (fieldX op) (fieldKk op)⟩
  , ⟨0xF000, 0x7000, fun op => .addImm (fieldX op) (fieldKk op)⟩ ]

/-- Rows 10 to 19 of rule R66. -/
def opcodeRowsB : List OpcodeRow :=
  [ ⟨0xF00F, 0x8000, fun op => .ldReg (fieldX op) (fieldY op)⟩
  , ⟨0xF00F, 0x8001, fun op => .or (fieldX op) (fieldY op)⟩
  , ⟨0xF00F, 0x8002, fun op => .and (fieldX op) (fieldY op)⟩
  , ⟨0xF00F, 0x8003, fun op => .xor (fieldX op) (fieldY op)⟩
  , ⟨0xF00F, 0x8004, fun op => .addReg (fieldX op) (fieldY op)⟩
  , ⟨0xF00F, 0x8005, fun op => .sub (fieldX op) (fieldY op)⟩
  , ⟨0xF00F, 0x8006, fun op => .shr (fieldX op) (fieldY op)⟩
  , ⟨0xF00F, 0x8007, fun op => .subn (fieldX op) (fieldY op)⟩
  , ⟨0xF00F, 0x800E, fun op => .shl (fieldX op) (fieldY op)⟩
  , ⟨0xF00F, 0x9000, fun op => .sneReg (fieldX op) (fieldY op)⟩ ]

/-- Rows 20 to 34 of rule R66. -/
def opcodeRowsC : List OpcodeRow :=
  [ ⟨0xF000, 0xA000, fun op => .ldI (fieldNnn op)⟩
  , ⟨0xF000, 0xB000, fun op => .jpV0 (fieldNnn op)⟩
  , ⟨0xF000, 0xC000, fun op => .rnd (fieldX op) (fieldKk op)⟩
  , ⟨0xF000, 0xD000, fun op => .drw (fieldX op) (fieldY op) (fieldN op)⟩
  , ⟨0xF0FF, 0xE09E, fun op => .skp (fieldX op)⟩
  , ⟨0xF0FF, 0xE0A1, fun op => .sknp (fieldX op)⟩
  , ⟨0xF0FF, 0xF007, fun op => .ldVxDt (fieldX op)⟩
  , ⟨0xF0FF, 0xF00A, fun op => .ldVxK (fieldX op)⟩
  , ⟨0xF0FF, 0xF015, fun op => .ldDtVx (fieldX op)⟩
  , ⟨0xF0FF, 0xF018, fun op => .ldStVx (fieldX op)⟩
  , ⟨0xF0FF, 0xF01E, fun op => .addI (fieldX op)⟩
  , ⟨0xF0FF, 0xF029, fun op => .ldF (fieldX op)⟩
  , ⟨0xF0FF, 0xF033, fun op => .ldB (fieldX op)⟩
  , ⟨0xF0FF, 0xF055, fun op => .dump (fieldX op)⟩
  , ⟨0xF0FF, 0xF065, fun op => .load (fieldX op)⟩ ]

/-- The 34 rows of rule R66, in its order. -/
def opcodeRows : List OpcodeRow := opcodeRowsA ++ opcodeRowsB ++ opcodeRowsC

/-- Rule R64: the instruction of the row the word matches; `none` is an unrecognized word (R67). -/
def decodeWord (op : Word) : Option Instr := (opcodeRows.find? (·.hits op)).map (·.build op)

/-- Why a sequence of bytes is not an instruction. -/
inductive DecodeError where
  /-- fewer than the two bytes of an instruction (R60) -/
  | truncated
  /-- the word matches no row of rule R66 (R67) -/
  | unrecognized (op : Word)
deriving DecidableEq, Repr

/-- Two bytes as a big-endian word: the byte at the lower address is the high byte (R42, R60). -/
def wordOfBytes (hi lo : Byte) : Word := hi ++ lo

/-- The byte at the lower address (R42). -/
def highByte (w : Word) : Byte := w.extractLsb' 8 8

/-- The byte at the higher address (R42). -/
def lowByte (w : Word) : Byte := w.extractLsb' 0 8

/-- The decoder on bytes: total, one length of two bytes, the rest returned (R60, R64, R67). -/
def decode : List Byte → Except DecodeError (Instr × List Byte)
  | hi :: lo :: rest =>
    match decodeWord (wordOfBytes hi lo) with
    | some i => .ok (i, rest)
    | none => .error (.unrecognized (wordOfBytes hi lo))
  | [_] => .error .truncated
  | [] => .error .truncated

/-- Format `NNN` of rule R62. -/
def formNnn (fam : Nibble) (nnn : Addr) : Word := fam ++ nnn

/-- Format `XKK` of rule R62. -/
def formXkk (fam x : Nibble) (kk : Byte) : Word := (fam ++ x : BitVec 8) ++ kk

/-- Formats `XY` (with the sub-opcode in the low nibble) and `XYN` of rule R62. -/
def formXyn (fam x y n : Nibble) : Word := (fam ++ x : BitVec 8) ++ (y ++ n : BitVec 8)

/-- The word of an instruction, by the pattern column of rule R66 and the formats of rule R62 (format `X` is `XKK` with a fixed
low byte). -/
def encodeWord : Instr → Word
  | .cls => 0x00E0
  | .ret => 0x00EE
  | .jp nnn => formNnn 0x1 nnn
  | .call nnn => formNnn 0x2 nnn
  | .seImm x kk => formXkk 0x3 x kk
  | .sneImm x kk => formXkk 0x4 x kk
  | .seReg x y => formXyn 0x5 x y 0x0
  | .ldImm x kk => formXkk 0x6 x kk
  | .addImm x kk => formXkk 0x7 x kk
  | .ldReg x y => formXyn 0x8 x y 0x0
  | .or x y => formXyn 0x8 x y 0x1
  | .and x y => formXyn 0x8 x y 0x2
  | .xor x y => formXyn 0x8 x y 0x3
  | .addReg x y => formXyn 0x8 x y 0x4
  | .sub x y => formXyn 0x8 x y 0x5
  | .shr x y => formXyn 0x8 x y 0x6
  | .subn x y => formXyn 0x8 x y 0x7
  | .shl x y => formXyn 0x8 x y 0xE
  | .sneReg x y => formXyn 0x9 x y 0x0
  | .ldI nnn => formNnn 0xA nnn
  | .jpV0 nnn => formNnn 0xB nnn
  | .rnd x kk => formXkk 0xC x kk
  | .drw x y n => formXyn 0xD x y n
  | .skp x => formXkk 0xE x 0x9E
  | .sknp x => formXkk 0xE x 0xA1
  | .ldVxDt x => formXkk 0xF x 0x07
  | .ldVxK x => formXkk 0xF x 0x0A
  | .ldDtVx x => formXkk 0xF x 0x15
  | .ldStVx x => formXkk 0xF x 0x18
  | .addI x => formXkk 0xF x 0x1E
  | .ldF x => formXkk 0xF x 0x29
  | .ldB x => formXkk 0xF x 0x33
  | .dump x => formXkk 0xF x 0x55
  | .load x => formXkk 0xF x 0x65

/-- The two bytes of an instruction as they lie in memory, high byte first (R42, R60). -/
def encode (i : Instr) : List Byte := [highByte (encodeWord i), lowByte (encodeWord i)]

/-- A hexadecimal digit. -/
def hexDigit (d : Nibble) : String :=
  ["0", "1", "2", "3", "4", "5", "6", "7", "8", "9", "A", "B", "C", "D", "E", "F"].getD d.toNat ""

/-- A register operand, `V0` to `VF` (R70). -/
def asmReg (x : Nibble) : String := "V" ++ hexDigit x

/-- An immediate operand in hexadecimal (R70). -/
def asmImm (kk : Byte) : String := "0x" ++ hexDigit (kk.extractLsb' 4 4) ++ hexDigit (kk.extractLsb' 0 4)

/-- An address operand in hexadecimal (R70). -/
def asmAddr (nnn : Addr) : String :=
  "0x" ++ hexDigit (nnn.extractLsb' 8 4) ++ hexDigit (nnn.extractLsb' 4 4) ++ hexDigit (nnn.extractLsb' 0 4)

/-- A line of two operands, destination first (R70). -/
def asmLine (mnemonic a b : String) : String := mnemonic ++ " " ++ a ++ ", " ++ b

/-- The assembler line of an instruction, by the assembler column of rule R66 and the syntax of rule R70. -/
def assembly : Instr → String
  | .cls => "CLS"
  | .ret => "RET"
  | .jp nnn => "JP " ++ asmAddr nnn
  | .call nnn => "CALL " ++ asmAddr nnn
  | .seImm x kk => asmLine "SE" (asmReg x) (asmImm kk)
  | .sneImm x kk => asmLine "SNE" (asmReg x) (asmImm kk)
  | .seReg x y => asmLine "SE" (asmReg x) (asmReg y)
  | .ldImm x kk => asmLine "LD" (asmReg x) (asmImm kk)
  | .addImm x kk => asmLine "ADD" (asmReg x) (asmImm kk)
  | .ldReg x y => asmLine "LD" (asmReg x) (asmReg y)
  | .or x y => asmLine "OR" (asmReg x) (asmReg y)
  | .and x y => asmLine "AND" (asmReg x) (asmReg y)
  | .xor x y => asmLine "XOR" (asmReg x) (asmReg y)
  | .addReg x y => asmLine "ADD" (asmReg x) (asmReg y)
  | .sub x y => asmLine "SUB" (asmReg x) (asmReg y)
  | .shr x y => asmLine "SHR" (asmReg x) (asmReg y)
  | .subn x y => asmLine "SUBN" (asmReg x) (asmReg y)
  | .shl x y => asmLine "SHL" (asmReg x) (asmReg y)
  | .sneReg x y => asmLine "SNE" (asmReg x) (asmReg y)
  | .ldI nnn => asmLine "LD" "I" (asmAddr nnn)
  | .jpV0 nnn => asmLine "JP" "V0" (asmAddr nnn)
  | .rnd x kk => asmLine "RND" (asmReg x) (asmImm kk)
  | .drw x y n => asmLine "DRW" (asmReg x) (asmReg y) ++ ", 0x" ++ hexDigit n
  | .skp x => "SKP " ++ asmReg x
  | .sknp x => "SKNP " ++ asmReg x
  | .ldVxDt x => asmLine "LD" (asmReg x) "DT"
  | .ldVxK x => asmLine "LD" (asmReg x) "K"
  | .ldDtVx x => asmLine "LD" "DT" (asmReg x)
  | .ldStVx x => asmLine "LD" "ST" (asmReg x)
  | .addI x => asmLine "ADD" "I" (asmReg x)
  | .ldF x => asmLine "LD" "F" (asmReg x)
  | .ldB x => asmLine "LD" "B" (asmReg x)
  | .dump x => asmLine "LD" "[I]" (asmReg x)
  | .load x => asmLine "LD" (asmReg x) "[I]"

/-- The 16-bit instruction whose low `nbits` bits are those of `w` and whose other bits are 0: how the host hands over a row of
spec/opcode_table.json (bit 0 of `w` is bit 0 of the word; every row has 16 bits). -/
def tableWord (nbits w : Nat) : Word := BitVec.ofNat 16 (w % 2 ^ nbits)

/-- The instruction the decoder reads from the bytes of that word, laid out as the machine stores them (R42). -/
def decodeTableWord (nbits w : Nat) : Option Instr :=
  match decode [highByte (tableWord nbits w), lowByte (tableWord nbits w)] with
  | .ok (i, _) => some i
  | .error _ => none

end Sys2Proof
end

