-- ==== Sys2Proof/Machine/Defaults.lean ====
section
/-!
DEFINITION. The defaults of the model's parameters that the spec supplies from general knowledge: the 80 font bytes (spec
10_state.md rule R22) and the two quirk flags (rule R16). Both are arguments of the `Reset` event in Machine/Events.lean.
-/
namespace Sys2Proof.Machine

/-- Glyphs 0 to 7 of rule R22's table, five bytes each. -/
def fontBytesLow : List Byte :=
  [0xF0, 0x90, 0x90, 0x90, 0xF0] ++ [0x20, 0x60, 0x20, 0x20, 0x70] ++ [0xF0, 0x10, 0xF0, 0x80, 0xF0] ++
  [0xF0, 0x10, 0xF0, 0x10, 0xF0] ++ [0x90, 0x90, 0xF0, 0x10, 0x10] ++ [0xF0, 0x80, 0xF0, 0x10, 0xF0] ++
  [0xF0, 0x80, 0xF0, 0x90, 0xF0] ++ [0xF0, 0x10, 0x20, 0x40, 0x40]

/-- Glyphs 8 to F of rule R22's table. -/
def fontBytesHigh : List Byte :=
  [0xF0, 0x90, 0xF0, 0x90, 0xF0] ++ [0xF0, 0x90, 0xF0, 0x10, 0xF0] ++ [0xF0, 0x90, 0xF0, 0x90, 0x90] ++
  [0xE0, 0x90, 0xE0, 0x90, 0xE0] ++ [0xF0, 0x80, 0x80, 0x80, 0xF0] ++ [0xE0, 0x90, 0x90, 0x90, 0xE0] ++
  [0xF0, 0x80, 0xF0, 0x80, 0xF0] ++ [0xF0, 0x80, 0xF0, 0x80, 0x80]

/-- The default `FONT[0..79]` of rule R22. PRESUMED by the spec itself (decision D15, G2), unsafe for a claim about glyph shapes:
assumption log entry 4. -/
def fontBytes : List Byte := fontBytesLow ++ fontBytesHigh

/-- Default of `cfg.shiftQuirk` (R16; decision D14, G5). PRESUMED, unsafe: assumption log entry 5. -/
def defaultShiftQuirk : Bool := true

/-- Default of `cfg.incrementIndexQuirk` (R16; decision D14, G5). PRESUMED, unsafe: assumption log entry 5. -/
def defaultIncrementIndexQuirk : Bool := true

end Sys2Proof.Machine
end

