-- ==== Sys2Proof/Machine/State.lean ====
section
/-!
DEFINITION. The machine's state as plain data: everything spec 10_state.md gives the machine, and one counter of the model's own
(`draws`) that keeps the random draws apart. Also the outcome types and the state after reset (rule R27).
-/
namespace Sys2Proof.Machine

/-- The cause code of the fault latch (R20, R152). It is the spec's state, not a stop of the model: a Step that raises one goes
on to a next state in which the latch holds it (R151). -/
inductive Cause where
  /-- code 0: no fault -/
  | noFault
  /-- code 1: the fetched word matches no row of R66 (R153) -/
  | illegalOpcode
  /-- code 2: CALL with 16 entries in use (R154) -/
  | stackOverflow
  /-- code 3: RET with an empty stack (R155) -/
  | stackUnderflow
  /-- code 4: a data access above 0xFFF (R156) -/
  | memoryBounds
  /-- code 5: a key test with an index above 15 (R158) -/
  | keyIndex
deriving DecidableEq, Repr

/-- The 3-bit code of rule R152's table. -/
def Cause.code : Cause → BitVec 3
  | .noFault => 0
  | .illegalOpcode => 1
  | .stackOverflow => 2
  | .stackUnderflow => 3
  | .memoryBounds => 4
  | .keyIndex => 5

/-- The quirk flags, latched at reset (R16). -/
structure Quirks where
  /-- SHR and SHL take their source from `V[y]` instead of `V[x]` -/
  shiftQuirk : Bool
  /-- LD [I],Vx and LD Vx,[I] advance `I` by `x + 1` -/
  incrementIndexQuirk : Bool
deriving DecidableEq, Repr

/-- Main memory: (address, byte) cells in canonical form (`Memory.wf` of Machine/Ops.lean); an address that is not listed reads
as its reset contents (`resetByte`). -/
abbrev Memory := List Host.Cell

/-- The framebuffer: 32 rows of 64 one-bit pixels, `fb[y][x]` (R21). -/
abbrev Frame := Vector (Vector Bool 64) 32

/-- The parameter `FONT[0..79]` (R22). -/
abbrev Font := Vector Byte 80

/-- Everything the machine holds between two events. -/
structure State where
  /-- main memory, 4096 bytes (R40) -/
  mem : Memory
  /-- the registers V0 to VF (R10); VF is also the flag register (R11) -/
  v : Vector Byte 16
  /-- the index register I (R12) -/
  i : Word
  /-- the program counter (R13) -/
  pc : Word
  /-- the stack pointer: how many entries are in use, 0 to 16 inclusive (R14, conflict C1) -/
  sp : Fin 17
  /-- the call stack, 16 return addresses (R14) -/
  stack : Vector Word 16
  /-- the delay timer DT (R15) -/
  dt : Byte
  /-- the sound timer ST (R15) -/
  st : Byte
  /-- the framebuffer (R21) -/
  fb : Frame
  /-- the keypad, `true` is pressed (R21) -/
  keys : Vector Bool 16
  /-- the key-wait state (R17) -/
  waiting : Bool
  /-- the register a key-wait delivers to (R17) -/
  waitReg : Nibble
  /-- the redraw mark (R18) -/
  redraw : Bool
  /-- the sound signal (R19) -/
  soundOn : Bool
  /-- the fault latch's cause (R20) -/
  fault : Cause
  /-- the fault latch's info word (R20) -/
  faultInfo : Word
  /-- the quirk flags (R16) -/
  quirks : Quirks
  /-- MODEL'S OWN, not the spec's: how many RND have been executed, so that each draws a fresh `Config.rndDraw` (R113; assumption
  log entry 1) -/
  draws : Nat
deriving DecidableEq, Repr

/-- Reasons the MODEL stops. There are none: every behaviour the source leaves undefined is, in the spec, the fault latch (R150,
decision D1), which is a next state; an address that does not exist cannot be formed (`Addr`). So this type is empty (safe:
no instruction is stopped). Assumption log entry 8. -/
inductive Fault where
deriving DecidableEq, Repr

/-- Reasons the model gives no meaning. -/
inductive Refusal where
  /-- an instruction whose arm of `exec` has no meaning yet; no arm is so (safe: nothing can be proved of a refused step) -/
  | notModelled (mnemonic : String)
deriving DecidableEq, Repr

/-- What an instruction answers. -/
abbrev Result := Host.Outcome State Fault Refusal

/-- The machine right after `Reset` with the default arguments (R27, R180): all zero, the font in memory (nothing listed: the
font and the zeros are what an unlisted address reads as), `pc` at 0x200. `draws` is the model's own (log entry 1). -/
def State.reset : State where
  mem := []
  v := Vector.replicate 16 0
  i := 0
  pc := Config.progBase
  sp := 0
  stack := Vector.replicate 16 0
  dt := 0
  st := 0
  fb := Vector.replicate 32 (Vector.replicate 64 false)
  keys := Vector.replicate 16 false
  waiting := false
  waitReg := 0
  redraw := false
  soundOn := false
  fault := .noFault
  faultInfo := 0
  quirks := ⟨defaultShiftQuirk, defaultIncrementIndexQuirk⟩
  draws := 0

end Sys2Proof.Machine
end

