-- ==== Sys2Proof/Machine/Ops.lean ====
section
/-!
DEFINITION. The operations every meaning is written over: memory, registers, the program counter, raising a fault (the machine's
one exception, spec 60_exceptions.md R150, R151), the call stack, the framebuffer, and fetching an instruction.
-/
namespace Sys2Proof.Machine

/-! ### Memory (20_memory.md) -/

/-- What an unlisted address reads as: its contents after reset, the font at 0x000 to 0x04F and zero elsewhere (R27, R41). -/
def resetByte (a : Nat) : Byte := fontBytes.getD a 0

/-- The byte listed for an address, if one is. -/
def Memory.find? : Memory → Nat → Option Byte
  | [], _ => none
  | c :: m, a => if c.1 = a then some c.2 else Memory.find? m a

/-- `mem[a]` (R40, R44). -/
def Memory.read (m : Memory) (a : Addr) : Byte := (Memory.find? m a.toNat).getD (resetByte a.toNat)

/-- List a byte for an address, keeping the addresses rising. -/
def Memory.insert : Memory → Nat → Byte → Memory
  | [], a, b => [(a, b)]
  | c :: m, a, b =>
    if a < c.1 then (a, b) :: c :: m
    else if a = c.1 then (a, b) :: m
    else c :: Memory.insert m a b

/-- Take an address off the list. -/
def Memory.erase : Memory → Nat → Memory
  | [], _ => []
  | c :: m, a => if c.1 = a then Memory.erase m a else c :: Memory.erase m a

/-- `mem[a] <- b` (R44, R47: no address is protected), keeping the canonical form. -/
def Memory.write (m : Memory) (a : Addr) (b : Byte) : Memory :=
  if b = resetByte a.toNat then Memory.erase m a.toNat else Memory.insert m a.toNat b

/-- Write a run of bytes at rising addresses (R42: "byte for byte"), the last address at most 0xFFF. -/
def Memory.writeBytes (m : Memory) (base : Nat) : List Byte → Memory
  | [] => m
  | b :: bs => Memory.writeBytes (m.write (BitVec.ofNat 12 base) b) (base + 1) bs

/-- The canonical form: addresses strictly rising, every one in 0x000 to 0xFFF, and none listed with the byte it would read as
unlisted; so that equal memories are equal lists. -/
abbrev Memory.wf (m : Memory) : Prop :=
  m.Pairwise (fun c d => c.1 < d.1) ∧ ∀ c ∈ m, c.1 < 4096 ∧ c.2 ≠ resetByte c.1

/-- `mem[a]` of a state. -/
def State.readByte (s : State) (a : Addr) : Byte := s.mem.read a

/-! ### Registers (10_state.md) -/

/-- `V[x]` (R10: none is hardwired). -/
def State.reg (s : State) (x : Nibble) : Byte := s.v[x.toNat]'x.isLt

/-- `V[x] <- b` (R10). -/
def State.setReg (s : State) (x : Nibble) (b : Byte) : State := { s with v := s.v.set x.toNat b x.isLt }

/-- `VF`, register 0xF, the implicit flag register (R11). -/
abbrev flagReg : Nibble := 0xF

/-- Write a result and then the flag, in that order, so that with `x = 15` the flag is what VF holds (R11, R103). -/
def State.setResultAndFlag (s : State) (x : Nibble) (result flag : Byte) : State :=
  (s.setReg x result).setReg flagReg flag

/-! ### The program counter (40_execution_cycle_and_flow.md R81) -/

/-- `pc <- pc + 2`, the default. -/
def State.advance (s : State) : State := { s with pc := s.pc + 2 }

/-- `pc <- pc + 4` if the condition holds, else `pc + 2`. -/
def State.skipIf (s : State) (c : Bool) : State := { s with pc := if c then s.pc + 4 else s.pc + 2 }

/-- `pc <- target`. -/
def State.jump (s : State) (target : Word) : State := { s with pc := target }

/-- "halted": `pc` is at or beyond the safety boundary; a function of `pc`, not a stored bit (R80). -/
def State.halted (s : State) : Bool := Config.pcLimit ≤ s.pc.toNat

/-- The three conditions in which a Step does nothing (R80, R174): faulted, key-wait, halted. -/
def State.blocked (s : State) : Bool := s.fault != .noFault || s.waiting || s.halted

/-! ### The fault (60_exceptions.md) -/

/-- `raise E(info)` (R151): the latch records the cause and the info word, and nothing else changes; `pc` stays on the raising
instruction. There is no vector, no handler and no return instruction (R150, R164): the way back is the `Reset` event
(`resetWith` of Machine/Events.lean), which `LoadProgram` performs too. -/
def raise (c : Cause) (info : Word) (s : State) : Result := .next { s with fault := c, faultInfo := info }

/-- The bounds check of R46, made for the whole instruction before any of its effects: `last` is the unwrapped sum of `I` and the
highest offset (R45). -/
def checkBounds (s : State) (last : Nat) (effect : State) : Result :=
  if last > 0xFFF then raise .memoryBounds s.i s else .next effect

/-! ### The call stack (R14) -/

/-- CALL's use of the stack (R84): `stack[sp] <- pc`, `sp <- sp + 1`, `pc <- target`; with 16 entries in use, StackOverflow. -/
def callTo (s : State) (target : Word) : Result :=
  if h : s.sp.val < 16 then
    .next { s with stack := s.stack.set s.sp.val s.pc h, sp := ⟨s.sp.val + 1, by omega⟩, pc := target }
  else raise .stackOverflow s.pc s

/-- RET's use of the stack (R86): `sp <- sp - 1`, then `pc <- stack[sp] + 2`; with none in use, StackUnderflow. The slot keeps its
value (R14). -/
def returnFromCall (s : State) : Result :=
  if h : s.sp.val = 0 then raise .stackUnderflow s.pc s
  else .next { s with sp := ⟨s.sp.val - 1, by omega⟩, pc := s.stack[s.sp.val - 1]'(by omega) + 2 }

/-! ### The keypad (R21, R57) -/

/-- `key[k]`. -/
def State.key (s : State) (k : Nibble) : Bool := s.keys[k.toNat]'k.isLt

/-- `key[k] <- pressed`. -/
def State.setKey (s : State) (k : Nibble) (pressed : Bool) : State := { s with keys := s.keys.set k.toNat pressed k.isLt }

/-! ### The framebuffer (44_display.md) -/

/-- `fb[y][x]`. -/
def Frame.get (f : Frame) (y : BitVec 5) (x : BitVec 6) : Bool := (f[y.toNat]'y.isLt)[x.toNat]'x.isLt

/-- `fb[y][x] <- on`. -/
def Frame.put (f : Frame) (y : BitVec 5) (x : BitVec 6) (on : Bool) : Frame :=
  f.set y.toNat ((f[y.toNat]'y.isLt).set x.toNat on x.isLt) y.isLt

/-- Every cell 0 (R140). -/
def Frame.clear : Frame := Vector.replicate 32 (Vector.replicate 64 false)

/-- `fb[y][x]` of a state. -/
def State.pixel (s : State) (y : BitVec 5) (x : BitVec 6) : Bool := s.fb.get y x

/-- A draw in progress: the framebuffer, and whether a pixel has gone from on to off (R141). -/
structure Blit where
  fb : Frame
  hit : Bool
deriving DecidableEq, Repr

/-- One sprite bit (R141): a 0 leaves the pixel, a 1 inverts it, and inverting an on pixel is a collision (R144). -/
def Blit.bit (b : Blit) (y : BitVec 5) (x : BitVec 6) (on : Bool) : Blit :=
  if on then ⟨b.fb.put y x (!b.fb.get y x), b.hit || b.fb.get y x⟩ else b

/-- The first `k` columns of one sprite row: column `c` is bit `7 - c` (R143) and lands at `(x0 + c) mod 64` (R142). -/
def Blit.columns (b : Blit) (y : BitVec 5) (x0 row : Byte) : Nat → Blit
  | 0 => b
  | c + 1 => (b.columns y x0 row c).bit y (BitVec.ofNat 6 (x0.toNat + c)) (row.getLsbD (7 - c))

/-- The first `k` sprite rows, `rowAt r` the byte of row `r`, which lands at `(y0 + r) mod 32` (R142). -/
def Blit.rows (b : Blit) (x0 y0 : Byte) (rowAt : Nat → Byte) : Nat → Blit
  | 0 => b
  | r + 1 => (b.rows x0 y0 rowAt r).columns (BitVec.ofNat 5 (y0.toNat + r)) x0 (rowAt r) 8

/-! ### Instruction fetch (R42, R48, R80) -/

/-- `MemRead(pc, 2)`: the byte at `pc` is the high byte; only used with `pc < 4094`, so both bytes exist (R46). -/
def State.fetchWord (s : State) : Word :=
  wordOfBytes (s.readByte (BitVec.ofNat 12 s.pc.toNat)) (s.readByte (BitVec.ofNat 12 (s.pc.toNat + 1)))

/-- What a Step does with a word that no row matches (R80, R153): IllegalOpcode, `pc` not advanced. -/
def raiseIllegal (op : Word) (s : State) : Result := raise .illegalOpcode op s

/-- Store an instruction word at `pc`, high byte at `pc` (R42). -/
def State.storeWordAtPc (s : State) (w : Word) : State :=
  { s with mem := s.mem.writeBytes s.pc.toNat [highByte w, lowByte w] }

/-- The same state with whatever would keep a Step from fetching undone: the fault latch cleared, the key-wait ended, a halted
`pc` back at 0x200. A state in which nothing blocks is not changed. It is no event of the machine: only `withFetchWord`
uses it (assumption log entry 9). -/
def State.unblocked (s : State) : State :=
  if s.blocked then
    { s with
      fault := .noFault
      faultInfo := 0
      waiting := false
      pc := if s.halted then Config.progBase else s.pc }
  else s

end Sys2Proof.Machine
end

