-- ==== Sys2Proof/Machine/Operands.lean ====
section
/-!
DEFINITION. The operand forms: immediates, the shift source, the one data addressing mode `I + offset` (spec
43_index_and_memory.md R136), the font glyph's address, the decimal digits, and the run of registers that LD [I],Vx and
LD Vx,[I] move.
-/
namespace Sys2Proof.Machine

/-- `zext_16(nnn)` (R63). -/
def addrOperand (nnn : Addr) : Word := nnn.setWidth 16

/-- `zext_16(b)` of a register's byte (R91, R131, R152). -/
def wordOfByte (b : Byte) : Word := b.setWidth 16

/-- The operand of SHR and SHL: `V[y]` if `cfg.shiftQuirk`, else `V[x]` (R110, R112). -/
def State.shiftSource (s : State) (x y : Nibble) : Byte := if s.quirks.shiftQuirk then s.reg y else s.reg x

/-- The unwrapped sum `I + offset` that the bounds check compares (R45, R46). -/
def State.dataSum (s : State) (offset : Nat) : Nat := s.i.toNat + offset

/-- The address `I + offset` of a data access that passed its bounds check (R45, R136). -/
def State.dataAddr (s : State) (offset : Nat) : Addr := BitVec.ofNat 12 (s.dataSum offset)

/-- `MemRead(I + offset, 1)`. -/
def State.dataByte (s : State) (offset : Nat) : Byte := s.readByte (s.dataAddr offset)

/-- The address of a glyph: `(V[x] & 0x0F) * 5` (R132; the font lies at 0x000, five bytes a glyph, R22). -/
def glyphAddr (b : Byte) : Word := wordOfByte (b &&& 0x0F) * 5

/-- The hundreds digit, 0 to 2 (R133). -/
def hundreds (b : Byte) : Byte := BitVec.ofNat 8 (b.toNat / 100)

/-- The tens digit (R133). -/
def tens (b : Byte) : Byte := BitVec.ofNat 8 (b.toNat / 10 % 10)

/-- The units digit (R133). -/
def units (b : Byte) : Byte := BitVec.ofNat 8 (b.toNat % 10)

/-- Memory after `V[0]` to `V[k-1]` are written to `I`, `I + 1`, … in rising order (R134). -/
def State.storeRegs (s : State) : Nat → Memory
  | 0 => s.mem
  | k + 1 => (s.storeRegs k).write (s.dataAddr k) (s.reg (BitVec.ofNat 4 k))

/-- The registers after `V[0]` to `V[k-1]` are loaded from `I`, `I + 1`, … in rising order (R135). -/
def State.loadRegs (s : State) : Nat → State
  | 0 => s
  | k + 1 => (s.loadRegs k).setReg (BitVec.ofNat 4 k) (s.dataByte k)

/-- `I` after a bulk transfer of registers 0 to `x`: advanced by `x + 1`, modulo 65536, iff `cfg.incrementIndexQuirk` (R134,
R135, R136). -/
def State.indexAfterBulk (s : State) (x : Nibble) : Word :=
  if s.quirks.incrementIndexQuirk then s.i + BitVec.ofNat 16 (x.toNat + 1) else s.i

end Sys2Proof.Machine
end

