-- ==== Sys2Proof/Machine/Alu.lean ====
section
/-!
DEFINITION. The register file and ALU instructions (spec 41_alu.md). Operands are read from the state before the Step, then the
result is written, then the flag (R103; decision D7 is followed, no form is refused).
-/
namespace Sys2Proof.Machine

/-- LD Vx, kk (R100). -/
def execLdImm (x : Nibble) (kk : Byte) (s : State) : Result := .next (s.setReg x kk).advance

/-- ADD Vx, kk (R101): modulo 256, VF not touched. -/
def execAddImm (x : Nibble) (kk : Byte) (s : State) : Result := .next (s.setReg x (s.reg x + kk)).advance

/-- LD Vx, Vy (R104). -/
def execLdReg (x y : Nibble) (s : State) : Result := .next (s.setReg x (s.reg y)).advance

/-- OR Vx, Vy (R105): VF becomes 0. -/
def execOr (x y : Nibble) (s : State) : Result := .next (s.setResultAndFlag x (s.reg x ||| s.reg y) 0).advance

/-- AND Vx, Vy (R106): VF becomes 0. -/
def execAnd (x y : Nibble) (s : State) : Result := .next (s.setResultAndFlag x (s.reg x &&& s.reg y) 0).advance

/-- XOR Vx, Vy (R107): VF becomes 0. -/
def execXor (x y : Nibble) (s : State) : Result := .next (s.setResultAndFlag x (s.reg x ^^^ s.reg y) 0).advance

/-- ADD Vx, Vy (R108): VF becomes the carry. -/
def execAddReg (x y : Nibble) (s : State) : Result :=
  .next (s.setResultAndFlag x (s.reg x + s.reg y) (carryFlag (s.reg x) (s.reg y))).advance

/-- SUB Vx, Vy (R109): `V[x] - V[y]`, VF becomes the not-borrow. -/
def execSub (x y : Nibble) (s : State) : Result :=
  .next (s.setResultAndFlag x (s.reg x - s.reg y) (notBorrowFlag (s.reg x) (s.reg y))).advance

/-- SHR Vx, Vy (R110): logical, by one; VF becomes the bit shifted out. -/
def execShr (x y : Nibble) (s : State) : Result :=
  .next (s.setResultAndFlag x (s.shiftSource x y >>> 1) (lowBitFlag (s.shiftSource x y))).advance

/-- SUBN Vx, Vy (R111): `V[y] - V[x]`, VF becomes the not-borrow. -/
def execSubn (x y : Nibble) (s : State) : Result :=
  .next (s.setResultAndFlag x (s.reg y - s.reg x) (notBorrowFlag (s.reg y) (s.reg x))).advance

/-- SHL Vx, Vy (R112): by one; VF becomes the bit shifted out. -/
def execShl (x y : Nibble) (s : State) : Result :=
  .next (s.setResultAndFlag x (s.shiftSource x y <<< 1) (highBitFlag (s.shiftSource x y))).advance

/-- The draw of this RND is used up: the next RND takes a fresh one (model's own counter, assumption log entry 1). -/
def State.countDraw (s : State) : State := { s with draws := s.draws + 1 }

/-- RND Vx, kk (R113): the drawn byte, a free value, AND `kk`. -/
def execRnd (x : Nibble) (kk : Byte) (s : State) : Result :=
  .next ((s.setReg x (Config.rndDraw s.draws &&& kk)).countDraw).advance

end Sys2Proof.Machine
end

