-- ==== Sys2Proof/Machine/Display.lean ====
section
/-!
DEFINITION. The display instructions (spec 44_display.md).
-/
namespace Sys2Proof.Machine

/-- The framebuffer replaced and the redraw mark set (R18, R146; decision D10). -/
def State.setFrame (s : State) (f : Frame) : State := { s with fb := f, redraw := true }

/-- CLS (R140): VF is not written. -/
def execCls (s : State) : Result := .next (s.setFrame Frame.clear).advance

/-- The whole draw (R141): `n` rows read at `I`, blitted at (`V[x]`, `V[y]`), the coordinates being the registers' values before
VF is reset (decision D7). -/
def State.blit (s : State) (x y n : Nibble) : Blit :=
  Blit.rows ⟨s.fb, false⟩ (s.reg x) (s.reg y) s.dataByte n.toNat

/-- What a completed DRW leaves (R141). -/
def State.drawn (s : State) (x y n : Nibble) : State :=
  ((s.setFrame (s.blit x y n).fb).setReg flagReg (flagOf (s.blit x y n).hit)).advance

/-- DRW Vx, Vy, n (R141): with `n = 0` no access is made and no fault is possible (R46). -/
def execDrw (x y n : Nibble) (s : State) : Result :=
  if n = 0 then .next (s.drawn x y n) else checkBounds s (s.dataSum (n.toNat - 1)) (s.drawn x y n)

end Sys2Proof.Machine
end

