-- ==== Sys2Proof/Machine/Flow.lean ====
section
/-!
DEFINITION. The control-transfer instructions (spec 40_execution_cycle_and_flow.md). None writes VF.
-/
namespace Sys2Proof.Machine

/-- RET (R86). -/
def execRet (s : State) : Result := returnFromCall s

/-- JP nnn (R83). -/
def execJp (nnn : Addr) (s : State) : Result := .next (s.jump (addrOperand nnn))

/-- CALL nnn (R84): the address pushed is the CALL's own. -/
def execCall (nnn : Addr) (s : State) : Result := callTo s (addrOperand nnn)

/-- SE Vx, kk (R87). -/
def execSeImm (x : Nibble) (kk : Byte) (s : State) : Result := .next (s.skipIf (s.reg x == kk))

/-- SNE Vx, kk (R88). -/
def execSneImm (x : Nibble) (kk : Byte) (s : State) : Result := .next (s.skipIf (s.reg x != kk))

/-- SE Vx, Vy (R89). -/
def execSeReg (x y : Nibble) (s : State) : Result := .next (s.skipIf (s.reg x == s.reg y))

/-- SNE Vx, Vy (R90). -/
def execSneReg (x y : Nibble) (s : State) : Result := .next (s.skipIf (s.reg x != s.reg y))

/-- JP V0, nnn (R91): the sum is kept in 16 bits, not reduced to 12. -/
def execJpV0 (nnn : Addr) (s : State) : Result := .next (s.jump (addrOperand nnn + wordOfByte (s.reg 0)))

end Sys2Proof.Machine
end

