-- ==== Sys2Proof/Machine/IndexMem.lean ====
section
/-!
DEFINITION. The index register and memory-transfer instructions (spec 43_index_and_memory.md). None writes VF implicitly.
-/
namespace Sys2Proof.Machine

/-- `I <- w` (R12). -/
def State.setIndex (s : State) (w : Word) : State := { s with i := w }

/-- Memory replaced. -/
def State.setMem (s : State) (m : Memory) : State := { s with mem := m }

/-- LD I, nnn (R130). -/
def execLdI (nnn : Addr) (s : State) : Result := .next (s.setIndex (addrOperand nnn)).advance

/-- ADD I, Vx (R131): modulo 65536, VF not written (decision D6). -/
def execAddI (x : Nibble) (s : State) : Result := .next (s.setIndex (s.i + wordOfByte (s.reg x))).advance

/-- LD F, Vx (R132). -/
def execLdF (x : Nibble) (s : State) : Result := .next (s.setIndex (glyphAddr (s.reg x))).advance

/-- Memory after the three digits are written at `I`, `I + 1`, `I + 2` (R133). -/
def State.storeDigits (s : State) (b : Byte) : Memory :=
  ((s.mem.write (s.dataAddr 0) (hundreds b)).write (s.dataAddr 1) (tens b)).write (s.dataAddr 2) (units b)

/-- LD B, Vx (R133): `I` is not changed. -/
def execLdB (x : Nibble) (s : State) : Result :=
  checkBounds s (s.dataSum 2) (s.setMem (s.storeDigits (s.reg x))).advance

/-- LD [I], Vx (R134): registers 0 to x inclusive; the addresses use the old `I`. -/
def execDump (x : Nibble) (s : State) : Result :=
  checkBounds s (s.dataSum x.toNat) ((s.setMem (s.storeRegs (x.toNat + 1))).setIndex (s.indexAfterBulk x)).advance

/-- LD Vx, [I] (R135): registers 0 to x inclusive; the addresses use the old `I`. -/
def execLoad (x : Nibble) (s : State) : Result :=
  checkBounds s (s.dataSum x.toNat) ((s.loadRegs (x.toNat + 1)).setIndex (s.indexAfterBulk x)).advance

end Sys2Proof.Machine
end

