-- ==== Sys2Proof/Machine/KeyTimer.lean ====
section
/-!
DEFINITION. The keypad and timer instructions (spec 42_keypad_and_timers.md). None writes VF implicitly.
-/
namespace Sys2Proof.Machine

/-- The key tests (R120, R121, R122): an index above 15 raises KeyIndex (decision D5, no mask); else skip when the key's level is
the one the instruction asks for. -/
def keyTest (s : State) (k : Byte) (pressed : Bool) : Result :=
  if k.toNat > 15 then raise .keyIndex (wordOfByte k) s
  else .next (s.skipIf (s.key (k.setWidth 4) == pressed))

/-- SKP Vx (R120). -/
def execSkp (x : Nibble) (s : State) : Result := keyTest s (s.reg x) true

/-- SKNP Vx (R121). -/
def execSknp (x : Nibble) (s : State) : Result := keyTest s (s.reg x) false

/-- LD Vx, DT (R123). -/
def execLdVxDt (x : Nibble) (s : State) : Result := .next (s.setReg x s.dt).advance

/-- The key-wait begins and `wait_reg` records the register (R17, R126). -/
def State.startKeyWait (s : State) (x : Nibble) : State := { s with waiting := true, waitReg := x }

/-- LD Vx, K (R126): no key is read and `V[x]` is not written yet; `pc` advances now. -/
def execLdVxK (x : Nibble) (s : State) : Result := .next (s.startKeyWait x).advance

/-- `DT <- b` (R15). -/
def State.setDt (s : State) (b : Byte) : State := { s with dt := b }

/-- LD DT, Vx (R124). -/
def execLdDtVx (x : Nibble) (s : State) : Result := .next (s.setDt (s.reg x)).advance

/-- `ST <- b` (R15). -/
def State.setSt (s : State) (b : Byte) : State := { s with st := b }

/-- LD ST, Vx (R125): `sound_on` does not change. -/
def execLdStVx (x : Nibble) (s : State) : Result := .next (s.setSt (s.reg x)).advance

end Sys2Proof.Machine
end

