-- ==== Sys2Proof/Machine/Step.lean ====
section
/-!
DEFINITION. The Step event (spec 40_execution_cycle_and_flow.md R80): nothing while the machine is faulted, waiting or halted; else
one fetch, one decode and one instruction, or IllegalOpcode.
-/
namespace Sys2Proof.Machine

/-- `Step` (R80). Every outcome is a next state (R82). -/
def step (s : State) : Host.Outcome State Fault Refusal :=
  if s.blocked then .next s
  else
    match decodeWord s.fetchWord with
    | some i => exec i s
    | none => raiseIllegal s.fetchWord s

/-- The state in which the next Step fetches and runs the 16-bit word of the host's `nbits` and `w`: the word is stored at `pc`,
high byte first (R42). A state in which a Step would not fetch at all is unblocked first (assumption log entry 9). -/
def State.withFetchWord (s : State) (nbits w : Nat) : State := s.unblocked.storeWordAtPc (tableWord nbits w)

end Sys2Proof.Machine
end

