-- ==== Sys2Proof/Machine/Events.lean ====
section
/-!
DEFINITION. The events that reach the core from outside instruction execution (spec 60_exceptions.md R160 to R163, 70_reset_and_hazards.md
R180, R181). Each is one atomic, total function of the state (20_memory.md R50). The sixth event, Step, is `step` of
Machine/Step.lean; `applyEvent` of Machine/Run.lean puts the six together.
-/
namespace Sys2Proof.Machine

/-- The default `FONT` (R22). -/
def defaultFont : Font := ⟨fontBytes.toArray, by decide⟩

/-- The default argument of `Reset` (R16, R180). -/
def defaultQuirks : Quirks := ⟨defaultShiftQuirk, defaultIncrementIndexQuirk⟩

/-- All of memory 0, then `mem[0 .. 79] <- FONT[0 .. 79]` (R180). An unlisted address reads as the default font or 0, so a machine
with the default font lists nothing here. -/
def resetMemory (font : Font) : Memory := Memory.writeBytes [] 0 font.toList

/-- `Reset(cfg)` of a machine with the font `font` (R27, R180). The model's own counter of draws goes on, so that the draws after
a reset are not those before it (assumption log entry 1). -/
def resetWith (font : Font) (cfg : Quirks) (s : State) : State :=
  { State.reset with mem := resetMemory font, quirks := cfg, draws := s.draws }

/-- What `LoadProgram` answers (R181). -/
inductive LoadAnswer where
  | success
  | failure
deriving DecidableEq, Repr

/-- `LoadProgram(bytes)` (R181, R182, conflict C5): longer than 3584 bytes, failure and no change at all; else a reset with the
current quirk flags and the bytes at 0x200. -/
def loadProgram (font : Font) (bytes : List Byte) (s : State) : LoadAnswer × State :=
  if romWf bytes then
    (.success,
      { resetWith font s.quirks s with mem := (resetMemory font).writeBytes Config.progBase.toNat bytes })
  else (.failure, s)

/-- A timer at 0 stays 0, else it goes down by one (R15, R160). -/
def countDown (t : Byte) : Byte := if t = 0 then 0 else t - 1

/-- `Tick` (R160): `sound_on` tests the sound timer after its decrement (conflict C9). -/
def tick (s : State) : State :=
  { s with dt := countDown s.dt, st := countDown s.st, soundOn := countDown s.st != 0 }

/-- The end of a key-wait (R162): the key code goes to `V[wait_reg]`; `pc` is not changed. -/
def State.deliverKey (s : State) (k : Nibble) : State :=
  { s.setReg s.waitReg (k.setWidth 8) with waiting := false }

/-- `SetKey(k, pressed)` (R161, R162): a press, and nothing else, also ends a key-wait. -/
def setKeyEvent (k : Nibble) (pressed : Bool) (s : State) : State :=
  if pressed && s.waiting && s.fault == .noFault then (s.setKey k pressed).deliverKey k else s.setKey k pressed

/-- `AckRedraw` (R163). -/
def ackRedraw (s : State) : State := { s with redraw := false }

/-- What the host may read between events (R25): no event, and no effect on the state. -/
structure HostView where
  fb : Frame
  v : Vector Byte 16
  i : Word
  pc : Word
  sp : Fin 17
  dt : Byte
  st : Byte
  waiting : Bool
  redraw : Bool
  soundOn : Bool
  fault : Cause
  faultInfo : Word
  /-- the derived status `pc >= 4094` -/
  halted : Bool
deriving DecidableEq, Repr

/-- The host's read of a state (R25; decision D13). -/
def State.hostView (s : State) : HostView :=
  { fb := s.fb, v := s.v, i := s.i, pc := s.pc, sp := s.sp, dt := s.dt, st := s.st, waiting := s.waiting,
    redraw := s.redraw, soundOn := s.soundOn, fault := s.fault, faultInfo := s.faultInfo, halted := s.halted }

end Sys2Proof.Machine
end

