-- ==== Sys2Proof/Machine/Run.lean ====
section
/-!
DEFINITION. The six events of the machine and a run as a sequence of them in any order (spec 20_memory.md R50: "events happen one at
a time in a total order chosen by the environment").
-/
namespace Sys2Proof.Machine

/-- The events of R50. The draw `rnd` of `Step(rnd)` is not an argument here: it is the free value `Config.rndDraw`
(assumption log entry 1). -/
inductive Event where
  /-- R180 -/
  | reset (cfg : Quirks)
  /-- R181 -/
  | loadProgram (bytes : List Byte)
  /-- R80 -/
  | step
  /-- R160 -/
  | tick
  /-- R161 -/
  | setKey (k : Nibble) (pressed : Bool)
  /-- R163 -/
  | ackRedraw
deriving DecidableEq, Repr

/-- One event, complete before the next (R50, R51). -/
def applyEvent (font : Font) (e : Event) (s : State) : Result :=
  match e with
  | .reset cfg => .next (resetWith font cfg s)
  | .loadProgram bytes => .next (Sys2Proof.Machine.loadProgram font bytes s).2
  | .step => Sys2Proof.Machine.step s
  | .tick => .next (Sys2Proof.Machine.tick s)
  | .setKey k pressed => .next (setKeyEvent k pressed s)
  | .ackRedraw => .next (Sys2Proof.Machine.ackRedraw s)

/-- A run: the events one after another (R50), for any list of them. -/
def runEvents (font : Font) : List Event → State → Result
  | [], s => .next s
  | e :: es, s =>
    match applyEvent font e s with
    | .next t => runEvents font es t
    | .fault r => .fault r
    | .refused r => .refused r

end Sys2Proof.Machine
end

