-- ==== Sys2Proof/Safety.lean ====
section
/-!
DEFINITION. What claims about runs are stated with: when a run has ended, and well (spec 70_reset_and_hazards.md R186); the table of fault
conditions (60_exceptions.md R152); which instruction writes which register (10_state.md R10, R11); the frame of the
register instructions; and the invariant of every reachable state (R26).
-/
namespace Sys2Proof.Machine

/-- THE RUN HAS ENDED: faulted, or halted and not waiting for a key (R186). -/
def State.runEnded (s : State) : Bool := s.fault != .noFault || (s.halted && !s.waiting)

/-- It ended well (R186). -/
def State.endedWell (s : State) : Bool := s.runEnded && s.fault == .noFault

/-- Rule R152's table: the cause and info word an instruction raises in a state, or `none` where it completes. -/
def faultOf (i : Instr) (s : State) : Option (Cause × Word) :=
  match i with
  | .call _ => if s.sp.val = 16 then some (.stackOverflow, s.pc) else none
  | .ret => if s.sp.val = 0 then some (.stackUnderflow, s.pc) else none
  | .drw _ _ n => if 1 ≤ n.toNat ∧ s.i.toNat + n.toNat - 1 > 0xFFF then some (.memoryBounds, s.i) else none
  | .ldB _ => if s.i.toNat + 2 > 0xFFF then some (.memoryBounds, s.i) else none
  | .dump x | .load x => if s.i.toNat + x.toNat > 0xFFF then some (.memoryBounds, s.i) else none
  | .skp x | .sknp x => if (s.reg x).toNat > 15 then some (.keyIndex, (s.reg x).setWidth 16) else none
  | .cls | .jp _ | .seImm _ _ | .sneImm _ _ | .seReg _ _ | .sneReg _ _ | .jpV0 _ => none
  | .ldImm _ _ | .addImm _ _ | .ldReg _ _ | .or _ _ | .and _ _ | .xor _ _ | .addReg _ _ | .sub _ _ => none
  | .shr _ _ | .subn _ _ | .shl _ _ | .rnd _ _ => none
  | .ldVxDt _ | .ldVxK _ | .ldDtVx _ | .ldStVx _ | .ldI _ | .addI _ | .ldF _ => none

/-- Rule R10's table of writers: "write `V[x]`", "write `V[0..x]`" and "write `VF` implicitly". (LD Vx,K writes no register: the
key-press event does.) -/
def writesReg (i : Instr) (r : Nibble) : Bool :=
  match i with
  | .ldImm x _ | .addImm x _ | .ldReg x _ | .rnd x _ | .ldVxDt x => r == x
  | .or x _ | .and x _ | .xor x _ | .addReg x _ | .sub x _ | .shr x _ | .subn x _ | .shl x _ => r == x || r == 0xF
  | .load x => r.toNat ≤ x.toNat
  | .drw _ _ _ => r == 0xF
  | .cls | .ret | .jp _ | .call _ | .seImm _ _ | .sneImm _ _ | .seReg _ _ | .sneReg _ _ | .jpV0 _ => false
  | .ldI _ | .skp _ | .sknp _ | .ldVxK _ | .ldDtVx _ | .ldStVx _ | .addI _ | .ldF _ | .ldB _ | .dump _ => false

/-- Nothing but V registers and `pc` differs between two states, and so every byte of memory reads as before. -/
def State.OnlyRegsAndPc (s t : State) : Prop :=
  t = { s with v := t.v, pc := t.pc } ∧ ∀ a, t.readByte a = s.readByte a

/-- Nothing but `pc` differs. -/
def State.OnlyPc (s t : State) : Prop :=
  t = { s with pc := t.pc } ∧ ∀ a, t.readByte a = s.readByte a

/-- A 1 bit of DRW's sprite lands on the pixel at row `py` and column `px`: some sprite row `r` and column `c` with
`py = (V[y] + r) mod 32`, `px = (V[x] + c) mod 64` and bit `7 - c` of `mem[I + r]` set (R141, R142, R143). -/
def State.SpriteBit (s : State) (x y n : Nibble) (py : BitVec 5) (px : BitVec 6) : Prop :=
  ∃ r c : Nat, r < n.toNat ∧ c < 8 ∧ py.toNat = ((s.reg y).toNat + r) % 32 ∧ px.toNat = ((s.reg x).toNat + c) % 64 ∧
    (s.readByte (s.dataAddr r)).getLsbD (7 - c) = true

/-- The invariant of every reachable state: what R26 lists that the types do not already say, the bound on `pc` of R13, and the
remarks of R86, R151, R152 and R162 about what no run can reach. -/
structure State.Inv (s : State) : Prop where
  /-- memory is in canonical form -/
  memory : s.mem.wf
  /-- `pc` is at most 0x10FE, the largest value an instruction can produce (R13) -/
  pcBound : s.pc.toNat ≤ 0x10FE
  /-- an entry in use holds the address of an executed CALL, below 4094 (R86) -/
  stackBound : ∀ j : Nibble, j.toNat < s.sp.val → (s.stack[j.toNat]'j.isLt).toNat < 4094
  /-- a waiting machine is not faulted (R162) -/
  waitNoFault : s.waiting = true → s.fault = .noFault
  /-- with no fault the info word is 0 (R152, code 0) -/
  noFaultInfo : s.fault = .noFault → s.faultInfo = 0
  /-- a faulted machine's `pc` is the address of the faulting instruction, which was fetched (R80, R151) -/
  faultPc : s.fault ≠ .noFault → s.pc.toNat < 4094

end Sys2Proof.Machine
end

