-- ==== Sys2Proof/Certificates/Slice0/Obligations.lean ====
section
/-!
DEFINITION. The statements for the provers, each with the rule of the spec it formalises. `decodeWord (form… …) = some …` in an
instruction's statement is its "Encoding" line; the existence of a next state `t` is its completion; the equation
`t = { s with … }` is its frame (only the fields named there differ).
-/
open Sys2Proof Sys2Proof.Machine

/-! ### Encoding (30_encoding.md) -/

/-- Decoding an instruction's two bytes gives the instruction and the bytes after it, at every operand value (R60, R61, R64,
R66). The numbers of the rows are presumed by the spec (D16, log entry 10). -/
def Obligations.DecodeReadsBackEveryEncoding : Prop :=
  ∀ (i : Instr) (rest : List Byte), i.wf = true → decode (encode i ++ rest) = .ok (i, rest)

/-- Every byte sequence that decodes is the encoding of what it decodes to: no word has two spellings (R64, R66). The numbers
of the rows are presumed by the spec (D16, log entry 10). That the match is exact is the spec's decision D2 (log entries 6 and
10). -/
def Obligations.DecodedBytesAreTheEncoding : Prop :=
  ∀ (bs rest : List Byte) (i : Instr), decode bs = .ok (i, rest) → i.wf = true ∧ bs = encode i ++ rest

/-- Rule R64: a row matches iff `op & mask = match`; the 34 rows are disjoint; the matching row is the instruction, and a word
that matches none is unrecognized. -/
def Obligations.OpcodeRowsAreDisjointAndDecisive : Prop :=
  opcodeRows.length = 34 ∧
  opcodeRows.Pairwise (fun r q => ∀ op : Word, ¬ (op &&& r.mask = r.pattern ∧ op &&& q.mask = q.pattern)) ∧
  ∀ op : Word,
    (∀ r ∈ opcodeRows, op &&& r.mask = r.pattern → decodeWord op = some (r.build op)) ∧
    ((∀ r ∈ opcodeRows, op &&& r.mask ≠ r.pattern) → decodeWord op = none)

/-- The table of rule R67: which words are unrecognized, by family digit, low nibble and low byte. The numbers of the rows are
presumed by the spec (D16), that matching is exact is its decision D2 (log entries 10 and 6). -/
def Obligations.UnrecognizedWordsAreTheTabledOnes : Prop :=
  ∀ op : Word, decodeWord op = none ↔
    (op.toNat / 4096 = 0x0 ∧ op ≠ 0x00E0 ∧ op ≠ 0x00EE) ∨
    (op.toNat / 4096 = 0x5 ∧ op.toNat % 16 ≠ 0) ∨
    (op.toNat / 4096 = 0x8 ∧ op.toNat % 16 ∈ [0x8, 0x9, 0xA, 0xB, 0xC, 0xD, 0xF]) ∨
    (op.toNat / 4096 = 0x9 ∧ op.toNat % 16 ≠ 0) ∨
    (op.toNat / 4096 = 0xE ∧ op.toNat % 256 ∉ [0x9E, 0xA1]) ∨
    (op.toNat / 4096 = 0xF ∧ op.toNat % 256 ∉ [0x07, 0x0A, 0x15, 0x18, 0x1E, 0x29, 0x33, 0x55, 0x65])

/-- The words the source itself shows, and one of each other format, decode to what they stand for (R65, R66). The words of
families the source does not show are presumed by the spec (D16, log entry 10). That 8AB9 is no instruction is its decision D2
(log entry 6). -/
def Obligations.SampleWordsDecode : Prop :=
  decodeWord 0x00E0 = some .cls ∧ decodeWord 0xA22A = some (.ldI 0x22A) ∧ decodeWord 0x6005 = some (.ldImm 0x0 0x05) ∧
  decodeWord 0xF029 = some (.ldF 0x0) ∧ decodeWord 0xD015 = some (.drw 0x0 0x1 0x5) ∧
  decodeWord 0x8AB7 = some (.subn 0xA 0xB) ∧ decodeWord 0xE29E = some (.skp 0x2) ∧ decodeWord 0x8AB9 = none

/-! ### The Step event (40_execution_cycle_and_flow.md, 60_exceptions.md) -/

/-- Rule R80: a faulted, waiting or halted machine does nothing; any other fetches the two bytes at `pc`, big-endian, and runs
the instruction they decode to, `exec i s`, or raises IllegalOpcode. Nothing is done around `exec`: the meaning writes `pc`.
The fault latch is the spec's choice, not the source's (D1, D2, log entry 6); the draw of `Step(rnd)` is the model's free
value (log entry 1). That nothing is fetched from 4094 up, and that any lower `pc` is, is its decision D18 (log entry 17). -/
def Obligations.StepRunsTheDecodedInstruction : Prop :=
  ∀ s : State,
    (s.fault ≠ .noFault ∨ s.waiting = true ∨ 4094 ≤ s.pc.toNat → step s = .next s) ∧
    ∀ hi lo : Byte, s.fault = .noFault → s.waiting = false → s.pc.toNat < 4094 →
      s.readByte (BitVec.ofNat 12 s.pc.toNat) = hi → s.readByte (BitVec.ofNat 12 (s.pc.toNat + 1)) = lo →
      (∀ i, decode [hi, lo] = .ok (i, []) → i.wf = true → step s = exec i s) ∧
      (decode [hi, lo] = .error (.unrecognized (hi ++ lo)) →
        step s = .next { s with fault := .illegalOpcode, faultInfo := hi ++ lo })

/-- Rule R82: exactly one of (a) no change, (b) one instruction executed completely, (c) a fault raised and nothing else
changed; (c) only in the cases of rule R152. Outcome (c), the IllegalOpcode case among it, rests on the fault latch, the
spec's choice and not the source's: decisions D1 to D5 (log entry 6). That a Step does nothing exactly from 4094 up is its
decision D18 (log entry 17). -/
def Obligations.StepHasExactlyOneOutcome : Prop :=
  ∀ s : State, ∃ t : State, step s = .next t ∧
    ((s.blocked = true ∧ t = s) ∨
     (s.blocked = false ∧ t.fault = .noFault ∧
      ∃ i, decodeWord s.fetchWord = some i ∧ faultOf i s = none ∧ exec i s = .next t) ∨
     (s.blocked = false ∧ ∃ c info, c ≠ .noFault ∧ t = { s with fault := c, faultInfo := info } ∧
      ((decodeWord s.fetchWord = none ∧ c = .illegalOpcode ∧ info = s.fetchWord) ∨
       ∃ i, decodeWord s.fetchWord = some i ∧ faultOf i s = some (c, info))))

/-- Rule R153: an unrecognized word raises IllegalOpcode with the word as info, `pc` not advanced; a machine reset and stepped
without a program does so at once. The spec's choice, not the source's: decision D2 (log entry 6). -/
def Obligations.UnrecognizedWordRaisesIllegalOpcode : Prop :=
  (∀ s : State, s.blocked = false → decodeWord s.fetchWord = none →
    ∃ t, step s = .next t ∧ t.fault = .illegalOpcode ∧ t.faultInfo = s.fetchWord ∧ t.pc = s.pc ∧
      t = { s with fault := t.fault, faultInfo := t.faultInfo }) ∧
  step State.reset = .next { State.reset with fault := .illegalOpcode, faultInfo := 0x0000 }

/-- Rule R152: the codes, and that each instruction raises exactly under the condition of the table (`faultOf`), the latch
alone changing (R151), and otherwise completes with the latch untouched. The spec's choice, not the source's: decisions D1 to
D5 (log entry 6). That 16 entries can be in use is conflict C1's resolution (log entry 12). -/
def Obligations.FaultsAreRaisedExactlyAsTabled : Prop :=
  (Cause.noFault.code = 0 ∧ Cause.illegalOpcode.code = 1 ∧ Cause.stackOverflow.code = 2 ∧ Cause.stackUnderflow.code = 3 ∧
    Cause.memoryBounds.code = 4 ∧ Cause.keyIndex.code = 5) ∧
  (∀ (i : Instr) (s : State),
    (∀ c info, faultOf i s = some (c, info) → exec i s = .next { s with fault := c, faultInfo := info }) ∧
    (faultOf i s = none → ∃ t, exec i s = .next t ∧ t.fault = s.fault ∧ t.faultInfo = s.faultInfo)) ∧
  (∀ s : State, s.blocked = false → decodeWord s.fetchWord = none →
    step s = .next { s with fault := .illegalOpcode, faultInfo := s.fetchWord })

/-- Rule R164: while a fault is set nothing but `Reset` (or a `LoadProgram` that succeeds, which resets) clears it; no second
fault is raised; Tick, SetKey and AckRedraw keep working. The spec's choice, not the source's: decision D1 (log entry 6). That
a failed load changes nothing is decision D17 (log entry 16), the event AckRedraw decision D10 (log entry 18). -/
def Obligations.FaultLatchIsLeftOnlyByReset : Prop :=
  ∀ (font : Font) (s : State), s.fault ≠ .noFault →
    (∀ e t, applyEvent font e s = .next t →
      (t.fault = s.fault ∧ t.faultInfo = s.faultInfo) ∨
      (t.fault = .noFault ∧ t.faultInfo = 0 ∧
        ((∃ cfg, e = .reset cfg) ∨ ∃ bytes, e = .loadProgram bytes ∧ bytes.length ≤ 3584))) ∧
    (∀ cfg, ∃ t, applyEvent font (.reset cfg) s = .next t ∧ t.fault = .noFault ∧ t.faultInfo = 0) ∧
    applyEvent font .step s = .next s ∧
    (∃ t, applyEvent font .tick s = .next t ∧ t.dt.toNat = s.dt.toNat - 1 ∧ t.st.toNat = s.st.toNat - 1) ∧
    (∀ k p, ∃ t, applyEvent font (.setKey k p) s = .next t ∧ t.key k = p) ∧
    (∃ t, applyEvent font .ackRedraw s = .next t ∧ t.redraw = false)

/-- Rule R186: what "the run has ended" and "ended well" mean, and that then, whatever events follow but a reset or a load,
only the timers (down), the sound signal, the keys and the redraw mark (off) can still change. The end of a run is the spec's
own definition, decision D19 (log entry 21). The latch is decision D1 (log entry 6), the event AckRedraw D10 (log entry 18),
the sound signal that Tick alone writes D20 (log entry 24), the guard at 4094 D18 (log entry 17). -/
def Obligations.EndedRunIsFinal : Prop :=
  ∀ (font : Font) (s : State),
    (s.runEnded = true ↔ s.fault ≠ .noFault ∨ (4094 ≤ s.pc.toNat ∧ s.waiting = false)) ∧
    (s.endedWell = true ↔ s.runEnded = true ∧ s.fault = .noFault) ∧
    ∀ es : List Event, s.runEnded = true →
      (∀ e ∈ es, (∀ cfg, e ≠ .reset cfg) ∧ ∀ bytes, e ≠ .loadProgram bytes) →
      ∃ t, runEvents font es s = .next t ∧ t.runEnded = true ∧
        t = { s with dt := t.dt, st := t.st, soundOn := t.soundOn, keys := t.keys, redraw := t.redraw } ∧
        t.dt.toNat ≤ s.dt.toNat ∧ t.st.toNat ≤ s.st.toNat ∧ (t.redraw = true → s.redraw = true)

/-- Rule R81's default: an instruction that is no jump, call or return and raises nothing leaves `pc + 2`, or, if it is one of
the six skips, `pc + 2` or `pc + 4`. That LD Vx,K advances `pc` when it executes is the spec's decision D11 (log entry 19),
the fault conditions left out by the premise its decisions D3 to D5 (log entry 6). -/
def Obligations.PcAdvancesByTwoOrSkips : Prop :=
  ∀ (i : Instr) (s t : State), exec i s = .next t → faultOf i s = none →
    (∀ nnn, i ≠ .jp nnn ∧ i ≠ .call nnn ∧ i ≠ .jpV0 nnn) → i ≠ .ret →
    t.pc = s.pc + 2 ∨
    (t.pc = s.pc + 4 ∧
      ((∃ x kk, i = .seImm x kk ∨ i = .sneImm x kk) ∨ (∃ x y, i = .seReg x y ∨ i = .sneReg x y) ∨
        ∃ x, i = .skp x ∨ i = .sknp x))

/-- The word the host places is the one the next Step fetches and runs, in every state (R42, R80; the placing itself is the
model's, log entry 9). -/
def Obligations.PlacedWordIsFetchedAndRun : Prop :=
  ∀ (s : State) (nbits w : Nat) (i : Instr), decodeTableWord nbits w = some i →
    step (s.withFetchWord nbits w) = exec i (s.withFetchWord nbits w)

/-! ### Control transfer (40_execution_cycle_and_flow.md) -/

/-- Rules R83 and R91: JP sets `pc` to the operand; JP V0 to operand plus `V[0]`, not reduced to 12 bits; the machine is then
halted exactly if that is at least 4094. Nothing else changes. The spec presumes that 1nnn is JP and Bnnn is JP V0 (general
knowledge, decision D16, log entry 10). That a target is not masked, aligned or bounded, and the machine halted exactly from
4094 up, is decision D18 (log entry 17). -/
def Obligations.JumpsSetPc : Prop :=
  ∀ (nnn : Addr) (s : State),
    (decodeWord (formNnn 0x1 nnn) = some (.jp nnn) ∧
     ∃ t, exec (.jp nnn) s = .next t ∧ s.OnlyPc t ∧ t.pc.toNat = nnn.toNat ∧
       (t.halted = true ↔ 4094 ≤ nnn.toNat)) ∧
    (decodeWord (formNnn 0xB nnn) = some (.jpV0 nnn) ∧
     ∃ t, exec (.jpV0 nnn) s = .next t ∧ s.OnlyPc t ∧ t.pc.toNat = nnn.toNat + (s.reg 0).toNat ∧
       (t.halted = true ↔ 4094 ≤ nnn.toNat + (s.reg 0).toNat))

/-- Rules R84 and R154: CALL pushes its own address and jumps; with 16 entries in use it raises StackOverflow and changes
nothing else. That a full stack faults is the spec's choice, decision D3 (log entry 6). The spec presumes that 2nnn is CALL
(general knowledge, decision D16, log entry 10). That 16 entries can be in use is conflict C1's resolution and their 16 bits
decision D22 (log entry 12). -/
def Obligations.CallPushesItsOwnAddress : Prop :=
  ∀ (nnn : Addr) (s : State),
    decodeWord (formNnn 0x2 nnn) = some (.call nnn) ∧
    (s.sp.val < 16 → ∃ t, exec (.call nnn) s = .next t ∧
      t = { s with stack := t.stack, sp := t.sp, pc := t.pc } ∧ (∀ a, t.readByte a = s.readByte a) ∧
      t.sp.val = s.sp.val + 1 ∧ t.pc.toNat = nnn.toNat ∧
      ∀ j : Fin 16, t.stack[j] = if j.val = s.sp.val then s.pc else s.stack[j]) ∧
    (s.sp.val = 16 → exec (.call nnn) s = .next { s with fault := .stackOverflow, faultInfo := s.pc })

/-- Rules R86 and R155: RET decrements `sp` and goes to the entry it then indexes plus 2, the slot keeping its value; with an
empty stack it raises StackUnderflow and changes nothing else. That an empty stack faults is the spec's choice, decision D3
(log entry 6). The spec presumes that 00EE is RET (general knowledge, decision D16, log entry 10). That the popped slot keeps
its value is decision D22 (log entry 12). -/
def Obligations.ReturnPopsAndAddsTwo : Prop :=
  ∀ s : State,
    decodeWord 0x00EE = some .ret ∧
    (∀ j : Fin 16, s.sp.val = j.val + 1 → ∃ t, exec .ret s = .next t ∧
      t = { s with sp := t.sp, pc := t.pc } ∧ (∀ a, t.readByte a = s.readByte a) ∧
      t.sp.val = j.val ∧ t.pc.toNat = ((s.stack[j]).toNat + 2) % 65536) ∧
    (s.sp.val = 0 → exec .ret s = .next { s with fault := .stackUnderflow, faultInfo := s.pc })

/-- Rule R85: CALL at address `a`, then anything that leaves `sp` and the pushed entry alone, then RET: `pc = a + 2` and the
stack pointer is back; and no instruction other than CALL writes the stack. The spec marks R85 as its own inference from R84
and R86. That RET leaves the slot's content is decision D22, that the 16th entry can be used conflict C1's resolution (log
entry 12). -/
def Obligations.CallThenReturnRoundTrip : Prop :=
  (∀ (nnn : Addr) (s t u : State), s.sp.val < 16 → exec (.call nnn) s = .next t → u.sp = t.sp →
    (∀ j : Fin 16, j.val = s.sp.val → u.stack[j] = t.stack[j]) →
    ∃ w, exec .ret u = .next w ∧ w.pc = s.pc + 2 ∧ w.sp = s.sp) ∧
  (∀ (i : Instr) (s t : State), exec i s = .next t → (∀ nnn, i ≠ .call nnn) → t.stack = s.stack)

/-- Rules R87 to R90: each skip leaves every register and compares as its name says. The spec presumes the patterns 3xkk,
4xkk, 5xy0 and 9xy0 (general knowledge, decision D16, log entry 10). -/
def Obligations.SkipsCompareAndAdvance : Prop :=
  ∀ (x y : Nibble) (kk : Byte) (s : State),
    (decodeWord (formXkk 0x3 x kk) = some (.seImm x kk) ∧
     ∃ t, exec (.seImm x kk) s = .next t ∧ s.OnlyPc t ∧
       t.pc = if (s.reg x).toNat = kk.toNat then s.pc + 4 else s.pc + 2) ∧
    (decodeWord (formXkk 0x4 x kk) = some (.sneImm x kk) ∧
     ∃ t, exec (.sneImm x kk) s = .next t ∧ s.OnlyPc t ∧
       t.pc = if (s.reg x).toNat ≠ kk.toNat then s.pc + 4 else s.pc + 2) ∧
    (decodeWord (formXyn 0x5 x y 0x0) = some (.seReg x y) ∧
     ∃ t, exec (.seReg x y) s = .next t ∧ s.OnlyPc t ∧
       t.pc = if (s.reg x).toNat = (s.reg y).toNat then s.pc + 4 else s.pc + 2) ∧
    (decodeWord (formXyn 0x9 x y 0x0) = some (.sneReg x y) ∧
     ∃ t, exec (.sneReg x y) s = .next t ∧ s.OnlyPc t ∧
       t.pc = if (s.reg x).toNat ≠ (s.reg y).toNat then s.pc + 4 else s.pc + 2)

/-! ### Register file and ALU (41_alu.md) -/

/-- Rules R100, R101, R104: load immediate, add immediate (modulo 256, VF not touched unless it is `V[x]`), set. The spec
presumes the patterns 7xkk and 8xy0 (general knowledge, decision D16, log entry 10). -/
def Obligations.LoadsAndAddImmediate : Prop :=
  ∀ (x y : Nibble) (kk : Byte) (s : State),
    (decodeWord (formXkk 0x6 x kk) = some (.ldImm x kk) ∧
     ∃ t, exec (.ldImm x kk) s = .next t ∧ s.OnlyRegsAndPc t ∧ t.pc = s.pc + 2 ∧
       ∀ r, t.reg r = if r = x then kk else s.reg r) ∧
    (decodeWord (formXkk 0x7 x kk) = some (.addImm x kk) ∧
     ∃ t, exec (.addImm x kk) s = .next t ∧ s.OnlyRegsAndPc t ∧ t.pc = s.pc + 2 ∧
       ∀ r, (t.reg r).toNat = if r = x then ((s.reg x).toNat + kk.toNat) % 256 else (s.reg r).toNat) ∧
    (decodeWord (formXyn 0x8 x y 0x0) = some (.ldReg x y) ∧
     ∃ t, exec (.ldReg x y) s = .next t ∧ s.OnlyRegsAndPc t ∧ t.pc = s.pc + 2 ∧
       ∀ r, t.reg r = if r = x then s.reg y else s.reg r)

/-- Rules R105 to R107: OR, AND, XOR bit by bit, and VF becomes 0 always, after the result is written. Flag last: R103,
decision D7 (log entry 7), as the rules' corner cases say. The spec presumes the sub-opcodes 1 to 3 of family 8 (general
knowledge, decision D16, log entry 10). -/
def Obligations.LogicForcesFlagZero : Prop :=
  ∀ (x y : Nibble) (s : State),
    (decodeWord (formXyn 0x8 x y 0x1) = some (.or x y) ∧
     ∃ t, exec (.or x y) s = .next t ∧ s.OnlyRegsAndPc t ∧ t.pc = s.pc + 2 ∧
       ∀ r, t.reg r = if r = 0xF then 0 else if r = x then s.reg x ||| s.reg y else s.reg r) ∧
    (decodeWord (formXyn 0x8 x y 0x2) = some (.and x y) ∧
     ∃ t, exec (.and x y) s = .next t ∧ s.OnlyRegsAndPc t ∧ t.pc = s.pc + 2 ∧
       ∀ r, t.reg r = if r = 0xF then 0 else if r = x then s.reg x &&& s.reg y else s.reg r) ∧
    (decodeWord (formXyn 0x8 x y 0x3) = some (.xor x y) ∧
     ∃ t, exec (.xor x y) s = .next t ∧ s.OnlyRegsAndPc t ∧ t.pc = s.pc + 2 ∧
       ∀ r, t.reg r = if r = 0xF then 0 else if r = x then s.reg x ^^^ s.reg y else s.reg r)

/-- Rule R108: the sum modulo 256, then VF is 1 iff the true sum exceeds 255, whatever `x` and `y` are. The forms with x or y
equal to 15 rest on R103's decision D7, operands first and flag last (log entry 7). The spec presumes the pattern 8xy4
(general knowledge, decision D16, log entry 10). -/
def Obligations.AddWritesCarry : Prop :=
  ∀ (x y : Nibble) (s : State),
    decodeWord (formXyn 0x8 x y 0x4) = some (.addReg x y) ∧
    ∃ t, exec (.addReg x y) s = .next t ∧ s.OnlyRegsAndPc t ∧ t.pc = s.pc + 2 ∧
      ∀ r, (t.reg r).toNat =
        if r = 0xF then (if (s.reg x).toNat + (s.reg y).toNat > 255 then 1 else 0)
        else if r = x then ((s.reg x).toNat + (s.reg y).toNat) % 256
        else (s.reg r).toNat

/-- Rules R109 and R111: the difference modulo 256 in either direction, then VF is 1 iff no borrow occurred. The forms with x
or y equal to 15 rest on R103's decision D7, operands first and flag last (log entry 7). The spec presumes the patterns 8xy5
and 8xy7 (general knowledge, decision D16, log entry 10). -/
def Obligations.SubtractionsWriteNotBorrow : Prop :=
  ∀ (x y : Nibble) (s : State),
    (decodeWord (formXyn 0x8 x y 0x5) = some (.sub x y) ∧
     ∃ t, exec (.sub x y) s = .next t ∧ s.OnlyRegsAndPc t ∧ t.pc = s.pc + 2 ∧
      ∀ r, (t.reg r).toNat =
        if r = 0xF then (if (s.reg x).toNat ≥ (s.reg y).toNat then 1 else 0)
        else if r = x then ((s.reg x).toNat + 256 - (s.reg y).toNat) % 256
        else (s.reg r).toNat) ∧
    (decodeWord (formXyn 0x8 x y 0x7) = some (.subn x y) ∧
     ∃ t, exec (.subn x y) s = .next t ∧ s.OnlyRegsAndPc t ∧ t.pc = s.pc + 2 ∧
      ∀ r, (t.reg r).toNat =
        if r = 0xF then (if (s.reg y).toNat ≥ (s.reg x).toNat then 1 else 0)
        else if r = x then ((s.reg y).toNat + 256 - (s.reg x).toNat) % 256
        else (s.reg r).toNat)

/-- Rules R110 and R112: the source is `V[y]` under the shift quirk and `V[x]` without it; one position, logical; VF is the
bit shifted out. The forms with x or y equal to 15 rest on R103's decision D7, operands first and flag last (log entry 7). The
spec presumes the patterns 8xy6 and 8xyE (general knowledge, decision D16, log entry 10). -/
def Obligations.ShiftsTakeTheQuirksSource : Prop :=
  ∀ (x y : Nibble) (s : State) (src : Nat),
    src = (if s.quirks.shiftQuirk = true then (s.reg y).toNat else (s.reg x).toNat) →
    (decodeWord (formXyn 0x8 x y 0x6) = some (.shr x y) ∧
     ∃ t, exec (.shr x y) s = .next t ∧ s.OnlyRegsAndPc t ∧ t.pc = s.pc + 2 ∧
       ∀ r, (t.reg r).toNat = if r = 0xF then src % 2 else if r = x then src / 2 else (s.reg r).toNat) ∧
    (decodeWord (formXyn 0x8 x y 0xE) = some (.shl x y) ∧
     ∃ t, exec (.shl x y) s = .next t ∧ s.OnlyRegsAndPc t ∧ t.pc = s.pc + 2 ∧
       ∀ r, (t.reg r).toNat = if r = 0xF then src / 128 else if r = x then src * 2 % 256 else (s.reg r).toNat)

/-- Rule R113, with the drawn byte (decision D12) as the model's free value (log entry 1): `V[x]` gets the draw AND `kk`, so every bit where
`kk` has a 0 is 0; VF is not written unless it is `V[x]`; the draw is used up. The spec presumes the pattern Cxkk (general
knowledge, decision D16, log entry 10). -/
def Obligations.RandomAndsAFreeByte : Prop :=
  ∀ (x : Nibble) (kk : Byte) (s : State),
    decodeWord (formXkk 0xC x kk) = some (.rnd x kk) ∧
    ∃ t, exec (.rnd x kk) s = .next t ∧ t = { s with v := t.v, pc := t.pc, draws := s.draws + 1 } ∧
      (∀ a, t.readByte a = s.readByte a) ∧ t.pc = s.pc + 2 ∧
      (∀ r, t.reg r = if r = x then Config.rndDraw s.draws &&& kk else s.reg r) ∧
      (∀ b, kk.getLsbD b = false → (t.reg x).getLsbD b = false)

/-- Rules R10 and R11, their table of writers over the whole instruction set: a register that an instruction is not listed as
writing keeps its value; in particular no instruction but the listed ones writes VF implicitly. That ADD I,Vx does not write
VF is the spec's decision D6 (log entry 20), that a fault writes no register D1 (log entry 6), that LD Vx,K leaves its
register to the press event D11 (log entry 19). -/
def Obligations.OnlyListedInstructionsWriteRegisters : Prop :=
  ∀ (i : Instr) (s t : State) (r : Nibble), exec i s = .next t → writesReg i r = false → t.reg r = s.reg r

/-! ### Keypad and timers (42_keypad_and_timers.md) -/

/-- Rules R120, R121, R122 and R158: the tests skip by the key's level; an index above 15 raises KeyIndex and changes nothing
else. That an index above 15 faults is the spec's choice, decision D5 (log entry 6). The spec presumes the patterns Ex9E and
ExA1 (general knowledge, decision D16, log entry 10). -/
def Obligations.KeyTestsSkipByLevel : Prop :=
  ∀ (x : Nibble) (s : State),
    decodeWord (formXkk 0xE x 0x9E) = some (.skp x) ∧ decodeWord (formXkk 0xE x 0xA1) = some (.sknp x) ∧
    (∀ k : Nibble, (s.reg x).toNat = k.toNat →
      (∃ t, exec (.skp x) s = .next t ∧ s.OnlyPc t ∧ t.pc = if s.key k = true then s.pc + 4 else s.pc + 2) ∧
      (∃ t, exec (.sknp x) s = .next t ∧ s.OnlyPc t ∧ t.pc = if s.key k = false then s.pc + 4 else s.pc + 2)) ∧
    ((s.reg x).toNat > 15 →
      (∃ t, exec (.skp x) s = .next t ∧ t = { s with fault := .keyIndex, faultInfo := t.faultInfo } ∧
        t.faultInfo.toNat = (s.reg x).toNat) ∧
      (∃ t, exec (.sknp x) s = .next t ∧ t = { s with fault := .keyIndex, faultInfo := t.faultInfo } ∧
        t.faultInfo.toNat = (s.reg x).toNat))

/-- Rules R123 to R125: the three transfers; LD ST does not change the sound signal. The spec presumes the patterns Fx07, Fx15
and Fx18 (general knowledge, decision D16, log entry 10). That LD ST leaves the sound signal rests on its being a latch that
Tick alone writes, decision D20 (log entry 24). -/
def Obligations.TimerTransfersMoveOneByte : Prop :=
  ∀ (x : Nibble) (s : State),
    (decodeWord (formXkk 0xF x 0x07) = some (.ldVxDt x) ∧
     ∃ t, exec (.ldVxDt x) s = .next t ∧ s.OnlyRegsAndPc t ∧ t.pc = s.pc + 2 ∧
       ∀ r, t.reg r = if r = x then s.dt else s.reg r) ∧
    (decodeWord (formXkk 0xF x 0x15) = some (.ldDtVx x) ∧
     ∃ t, exec (.ldDtVx x) s = .next t ∧ t = { s with dt := t.dt, pc := t.pc } ∧ (∀ a, t.readByte a = s.readByte a) ∧
       t.pc = s.pc + 2 ∧ t.dt = s.reg x) ∧
    (decodeWord (formXkk 0xF x 0x18) = some (.ldStVx x) ∧
     ∃ t, exec (.ldStVx x) s = .next t ∧ t = { s with st := t.st, pc := t.pc } ∧ (∀ a, t.readByte a = s.readByte a) ∧
       t.pc = s.pc + 2 ∧ t.st = s.reg x ∧ t.soundOn = s.soundOn)

/-- Rule R126: LD Vx,K advances `pc`, starts the wait and writes no register; then Steps do nothing, whatever keys are already
down; a press delivers its code to `V[x]` and ends the wait with `pc` where it is; nothing else ends it but a reset or a load.
That a press event and nothing else ends the wait is the spec's decision D11 (log entry 19). The spec presumes the pattern
Fx0A (general knowledge, decision D16, log entry 10). That no Step runs while a fault is set, and so the premise of no fault,
is decision D1 (log entry 6). -/
def Obligations.KeyWaitBeginsAndEnds : Prop :=
  ∀ (x : Nibble) (s : State),
    decodeWord (formXkk 0xF x 0x0A) = some (.ldVxK x) ∧
    ∃ t, exec (.ldVxK x) s = .next t ∧ t = { s with waiting := true, waitReg := x, pc := t.pc } ∧
      (∀ a, t.readByte a = s.readByte a) ∧ t.pc = s.pc + 2 ∧ step t = .next t ∧
      ∀ font : Font,
        (∀ k : Nibble, s.fault = .noFault → ∃ u, applyEvent font (.setKey k true) t = .next u ∧ u.waiting = false ∧
          u.pc = s.pc + 2 ∧ (u.reg x).toNat = k.toNat ∧ ∀ r, r ≠ x → u.reg r = s.reg r) ∧
        (∀ e u, applyEvent font e t = .next u → u.waiting = false →
          (∃ k, e = .setKey k true) ∨ (∃ cfg, e = .reset cfg) ∨ ∃ bytes, e = .loadProgram bytes)

/-- Rule R127: while no press arrives, Steps change nothing, Ticks only the timers and the sound signal, a release only its
key; over any sequence of those events `pc` and all registers stay; and then a press unblocks and writes the key. The spec
marks R127 as its own inference from R126, R80 and R160 to R162; decision D11 (log entry 19). The sound signal that Tick alone
writes is decision D20 (log entry 24), the event AckRedraw D10 (log entry 18). -/
def Obligations.KeyWaitHoldsUntilAPress : Prop :=
  ∀ (font : Font) (s : State), s.waiting = true →
    (∀ n, runEvents font (List.replicate n .step) s = .next s) ∧
    (∃ t, applyEvent font .tick s = .next t ∧ t = { s with dt := t.dt, st := t.st, soundOn := t.soundOn }) ∧
    (∀ k, ∃ t, applyEvent font (.setKey k false) s = .next t ∧ t = { s with keys := t.keys } ∧
      ∀ j, t.key j = if j = k then false else s.key j) ∧
    ∀ es : List Event, (∀ e ∈ es, e = .step ∨ e = .tick ∨ e = .ackRedraw ∨ ∃ k, e = .setKey k false) →
      ∃ t, runEvents font es s = .next t ∧ t.waiting = true ∧ t.pc = s.pc ∧ (∀ r, t.reg r = s.reg r) ∧
        t = { s with dt := t.dt, st := t.st, soundOn := t.soundOn, keys := t.keys, redraw := t.redraw } ∧
        ∀ k, s.fault = .noFault → ∃ u, applyEvent font (.setKey k true) t = .next u ∧ u.waiting = false ∧
          ∀ r, (u.reg r).toNat = if r = s.waitReg then k.toNat else (s.reg r).toNat

/-! ### Index register and memory transfers (43_index_and_memory.md) -/

/-- Rules R130 and R132: LD I writes the 12-bit operand; LD F writes the address of the glyph that the low nibble names. -/
def Obligations.SetIndexAndGlyphAddress : Prop :=
  ∀ (x : Nibble) (nnn : Addr) (s : State),
    (decodeWord (formNnn 0xA nnn) = some (.ldI nnn) ∧
     ∃ t, exec (.ldI nnn) s = .next t ∧ t = { s with i := t.i, pc := t.pc } ∧ (∀ a, t.readByte a = s.readByte a) ∧
       t.pc = s.pc + 2 ∧ t.i.toNat = nnn.toNat) ∧
    (decodeWord (formXkk 0xF x 0x29) = some (.ldF x) ∧
     ∃ t, exec (.ldF x) s = .next t ∧ t = { s with i := t.i, pc := t.pc } ∧ (∀ a, t.readByte a = s.readByte a) ∧
       t.pc = s.pc + 2 ∧ t.i.toNat = (s.reg x).toNat % 16 * 5)

/-- Rule R131: the sum is kept in 16 bits, not reduced to 12, and VF is not written. The 16-bit width of the sum and the
untouched VF are the spec's decision D6 (log entry 20). The spec presumes the pattern Fx1E (general knowledge, decision D16,
log entry 10). -/
def Obligations.AddToIndexWraps : Prop :=
  ∀ (x : Nibble) (s : State),
    decodeWord (formXkk 0xF x 0x1E) = some (.addI x) ∧
    ∃ t, exec (.addI x) s = .next t ∧ t = { s with i := t.i, pc := t.pc } ∧ (∀ a, t.readByte a = s.readByte a) ∧
      t.pc = s.pc + 2 ∧ t.i.toNat = (s.i.toNat + (s.reg x).toNat) % 65536

/-- Rule R133: the three digits at `I`, `I + 1`, `I + 2` and no other byte; `I` not changed; above 0xFFF, MemoryBounds and
nothing else. That an address above 0xFFF faults is the spec's choice, decision D4 (log entry 6). The spec presumes the
pattern Fx33 (general knowledge, decision D16, log entry 10). That any address up to 0xFFF can be stored to is decision D8
(log entry 17). -/
def Obligations.StoreBcdWritesThreeDigits : Prop :=
  ∀ (x : Nibble) (s : State),
    decodeWord (formXkk 0xF x 0x33) = some (.ldB x) ∧
    (s.i.toNat + 2 ≤ 0xFFF → ∃ t, exec (.ldB x) s = .next t ∧ t = { s with mem := t.mem, pc := t.pc } ∧ t.pc = s.pc + 2 ∧
      (∀ k, k < 3 → (s.dataAddr k).toNat = s.i.toNat + k) ∧
      (t.readByte (s.dataAddr 0)).toNat = (s.reg x).toNat / 100 ∧
      (t.readByte (s.dataAddr 1)).toNat = (s.reg x).toNat / 10 % 10 ∧
      (t.readByte (s.dataAddr 2)).toNat = (s.reg x).toNat % 10 ∧
      ∀ a, (∀ k, k < 3 → a ≠ s.dataAddr k) → t.readByte a = s.readByte a) ∧
    (s.i.toNat + 2 > 0xFFF → exec (.ldB x) s = .next { s with fault := .memoryBounds, faultInfo := s.i })

/-- Rule R134: `V[0]` to `V[x]` at `I` to `I + x` and no other byte; `I` advances by `x + 1` iff the quirk is on; above 0xFFF,
MemoryBounds and nothing else. That an address above 0xFFF faults is the spec's choice, decision D4 (log entry 6). The spec
presumes the pattern Fx55 (general knowledge, decision D16, log entry 10). That `I` advances modulo 65536, with no 12-bit
mask, is decision D6 (log entry 20), that any address up to 0xFFF can be stored to D8 (log entry 17). -/
def Obligations.RegisterDumpStoresZeroToX : Prop :=
  ∀ (x : Nibble) (s : State),
    decodeWord (formXkk 0xF x 0x55) = some (.dump x) ∧
    (s.i.toNat + x.toNat ≤ 0xFFF → ∃ t, exec (.dump x) s = .next t ∧
      t = { s with mem := t.mem, i := t.i, pc := t.pc } ∧ t.pc = s.pc + 2 ∧
      t.i.toNat = (if s.quirks.incrementIndexQuirk = true then (s.i.toNat + x.toNat + 1) % 65536 else s.i.toNat) ∧
      (∀ k, k ≤ x.toNat → (s.dataAddr k).toNat = s.i.toNat + k ∧
        t.readByte (s.dataAddr k) = s.reg (BitVec.ofNat 4 k)) ∧
      ∀ a, (∀ k, k ≤ x.toNat → a ≠ s.dataAddr k) → t.readByte a = s.readByte a) ∧
    (s.i.toNat + x.toNat > 0xFFF → exec (.dump x) s = .next { s with fault := .memoryBounds, faultInfo := s.i })

/-- Rule R135: `V[0]` to `V[x]` from `I` to `I + x`, the higher registers and all of memory unchanged; `I` as in R134; above
0xFFF, MemoryBounds and nothing else. That an address above 0xFFF faults is the spec's choice, decision D4 (log entry 6). The
spec presumes the pattern Fx65 (general knowledge, decision D16, log entry 10). That `I` advances modulo 65536, with no 12-bit
mask, is decision D6 (log entry 20). -/
def Obligations.RegisterLoadReadsZeroToX : Prop :=
  ∀ (x : Nibble) (s : State),
    decodeWord (formXkk 0xF x 0x65) = some (.load x) ∧
    (s.i.toNat + x.toNat ≤ 0xFFF → ∃ t, exec (.load x) s = .next t ∧
      t = { s with v := t.v, i := t.i, pc := t.pc } ∧ (∀ a, t.readByte a = s.readByte a) ∧ t.pc = s.pc + 2 ∧
      t.i.toNat = (if s.quirks.incrementIndexQuirk = true then (s.i.toNat + x.toNat + 1) % 65536 else s.i.toNat) ∧
      ∀ r, t.reg r =
        if r.toNat ≤ x.toNat then s.readByte (BitVec.ofNat 12 (s.i.toNat + r.toNat)) else s.reg r) ∧
    (s.i.toNat + x.toNat > 0xFFF → exec (.load x) s = .next { s with fault := .memoryBounds, faultInfo := s.i })

/-- Rule R137: dump with `I = a`, then, whatever happened in between but to the dumped bytes, LD I,a and load: the registers
are back. The spec marks R137 as its own inference from R130, R134 and R135. That the bytes may lie anywhere up to 0xFFF and
no further is decisions D4 and D8 (log entries 6 and 17). -/
def Obligations.DumpThenLoadRestores : Prop :=
  ∀ (x : Nibble) (a : Addr) (s t u : State), s.i.toNat = a.toNat → a.toNat + x.toNat ≤ 0xFFF →
    exec (.dump x) s = .next t →
    (∀ b : Addr, a.toNat ≤ b.toNat → b.toNat ≤ a.toNat + x.toNat → u.readByte b = t.readByte b) →
    ∃ w z, exec (.ldI a) u = .next w ∧ exec (.load x) w = .next z ∧
      ∀ r, r.toNat ≤ x.toNat → z.reg r = s.reg r

/-- Rule R54 for the bulk store: two registers dumped over the bytes of the next instruction are the word the next fetch
reads. The spec marks R54 as its own inference from R40, R48 and R50. That the bytes may lie anywhere up to 0xFFF and no
further is decisions D4 and D8 (log entries 6 and 17). -/
def Obligations.StoredWordIsFetchedNext : Prop :=
  ∀ (x : Nibble) (k : Nat) (s t : State), k + 1 ≤ x.toNat → s.i.toNat + x.toNat ≤ 0xFFF → s.i.toNat + k = s.pc.toNat + 2 →
    exec (.dump x) s = .next t →
    t.fetchWord = wordOfBytes (s.reg (BitVec.ofNat 4 k)) (s.reg (BitVec.ofNat 4 (k + 1)))

/-! ### Display (44_display.md) -/

/-- Rule R140: all 2048 cells off, the mark set, VF not written. -/
def Obligations.ClearScreenClearsEveryPixel : Prop :=
  ∀ s : State,
    decodeWord 0x00E0 = some .cls ∧
    ∃ t, exec .cls s = .next t ∧ t = { s with fb := t.fb, redraw := true, pc := t.pc } ∧
      (∀ a, t.readByte a = s.readByte a) ∧ t.pc = s.pc + 2 ∧ ∀ py px, t.pixel py px = false

/-- Rules R141, R143 and R144: a pixel is inverted exactly when a 1 bit of the sprite lands on it; VF is 1 iff some pixel went
from on to off, else 0; `I`, memory and the other registers are not changed; with no rows there is no access and no fault; a
row above 0xFFF raises MemoryBounds and nothing else. The spec's choices in it: bit 7 leftmost (D9, log entry 11), coordinates
read before VF is reset (D7, log entry 7), the redraw mark (D10, log entry 18), the fault (D4, log entry 6). -/
def Obligations.DrawInvertsSpritePixels : Prop :=
  ∀ (x y n : Nibble) (s : State),
    decodeWord (formXyn 0xD x y n) = some (.drw x y n) ∧
    (n = 0 ∨ s.i.toNat + n.toNat - 1 ≤ 0xFFF → ∃ t, exec (.drw x y n) s = .next t ∧
      t = { s with v := t.v, fb := t.fb, redraw := true, pc := t.pc } ∧ (∀ a, t.readByte a = s.readByte a) ∧
      t.pc = s.pc + 2 ∧ (∀ r, r ≠ 0xF → t.reg r = s.reg r) ∧
      (∀ k, k < n.toNat → (s.dataAddr k).toNat = s.i.toNat + k) ∧
      (∀ py px, t.pixel py px ≠ s.pixel py px ↔ s.SpriteBit x y n py px) ∧
      (t.reg 0xF = 0 ∨ t.reg 0xF = 1) ∧
      (t.reg 0xF = 1 ↔ ∃ py px, s.pixel py px = true ∧ t.pixel py px = false)) ∧
    (n ≠ 0 → s.i.toNat + n.toNat - 1 > 0xFFF →
      exec (.drw x y n) s = .next { s with fault := .memoryBounds, faultInfo := s.i })

/-- Rule R145: (a) the same DRW twice gives the framebuffer back, the first flag telling of a sprite bit over an on pixel, the
second of one over an off pixel; (b) CLS then DRW leaves exactly the sprite's 1 bits on and VF 0; (c) CLS after CLS changes
nothing in the framebuffer. The spec marks R145 as its own inference from R140 to R144; bit order D9 (log entry 11). The fault
that the premise leaves out is decision D4 (log entry 6), that the coordinates are read before VF is reset D7 (log entry 7).
-/
def Obligations.DrawTwiceRestoresTheScreen : Prop :=
  (∀ (x y n : Nibble) (s t u : State), x ≠ 0xF → y ≠ 0xF → faultOf (.drw x y n) s = none →
    exec (.drw x y n) s = .next t → exec (.drw x y n) t = .next u →
    u.fb = s.fb ∧
    (t.reg 0xF = 1 ↔ ∃ py px, s.SpriteBit x y n py px ∧ s.pixel py px = true) ∧
    (u.reg 0xF = 1 ↔ ∃ py px, s.SpriteBit x y n py px ∧ s.pixel py px = false)) ∧
  (∀ (x y n : Nibble) (s t u : State), exec .cls s = .next t → faultOf (.drw x y n) t = none →
    exec (.drw x y n) t = .next u →
    (∀ py px, u.pixel py px = true ↔ t.SpriteBit x y n py px) ∧ u.reg 0xF = 0) ∧
  (∀ s t u : State, exec .cls s = .next t → exec .cls t = .next u → u.fb = t.fb)

/-- Rule R146: every CLS and every DRW that completes sets the mark; only AckRedraw and a reset (or a load) clear it. That DRW
sets the mark and AckRedraw clears it is the spec's decision D10 (log entry 18). The fault that the premise leaves out is
decision D4 (log entry 6). -/
def Obligations.RedrawMarkIsSetByDrawing : Prop :=
  (∀ s t : State, exec .cls s = .next t → t.redraw = true) ∧
  (∀ (x y n : Nibble) (s t : State), faultOf (.drw x y n) s = none → exec (.drw x y n) s = .next t → t.redraw = true) ∧
  (∀ (font : Font) (e : Event) (s t : State), s.redraw = true → applyEvent font e s = .next t → t.redraw = false →
    e = .ackRedraw ∨ (∃ cfg, e = .reset cfg) ∨ ∃ bytes, e = .loadProgram bytes)

/-! ### The whole instruction set -/

/-- Who writes what, over all instructions (R12, R14 to R19, R44, R57): each clause names the only instructions that can
change that piece of state. By the spec's own decisions: that Tick alone writes the sound signal, D20 (log entry 24); the
writers of `I`, D6 (log entry 20); of the redraw mark, D10 (log entry 18); that a fault changes the latch alone, D1 (log entry
6). The counter `draws` is the model's own (log entry 1). -/
def Obligations.EveryStateHasOnlyItsWriters : Prop :=
  ∀ (i : Instr) (s t : State), exec i s = .next t →
    t.quirks = s.quirks ∧ t.keys = s.keys ∧ t.soundOn = s.soundOn ∧
    ((∀ x, i ≠ .ldB x ∧ i ≠ .dump x) → ∀ a, t.readByte a = s.readByte a) ∧
    ((∀ nnn, i ≠ .ldI nnn) → (∀ x, i ≠ .addI x ∧ i ≠ .ldF x ∧ i ≠ .dump x ∧ i ≠ .load x) → t.i = s.i) ∧
    (s.quirks.incrementIndexQuirk = false → (∀ nnn, i ≠ .ldI nnn) → (∀ x, i ≠ .addI x ∧ i ≠ .ldF x) → t.i = s.i) ∧
    ((∀ nnn, i ≠ .call nnn) → i ≠ .ret → t.sp = s.sp) ∧
    ((∀ x, i ≠ .ldDtVx x) → t.dt = s.dt) ∧
    ((∀ x, i ≠ .ldStVx x) → t.st = s.st) ∧
    (i ≠ .cls → (∀ x y n, i ≠ .drw x y n) → t.fb = s.fb ∧ t.redraw = s.redraw) ∧
    ((∀ x, i ≠ .ldVxK x) → t.waiting = s.waiting ∧ t.waitReg = s.waitReg) ∧
    ((∀ x kk, i ≠ .rnd x kk) → t.draws = s.draws)

/-- No instruction reads the redraw mark, the sound signal, ST, the info word or the recorded key-wait register (R15, R17 to
R20, R23): two machines that differ in these alone differ in these alone after a Step. The outputs are the spec's own: the
redraw mark by decision D10 (log entry 18), the sound signal by D20 (log entry 24), the fault latch by D1 (log entry 6). -/
def Obligations.StepReadsNoOutput : Prop :=
  ∀ (s s' : State),
    s' = { s with redraw := s'.redraw, soundOn := s'.soundOn, st := s'.st, faultInfo := s'.faultInfo, waitReg := s'.waitReg } →
    ∃ t t', step s = .next t ∧ step s' = .next t' ∧
      t' = { t with redraw := t'.redraw, soundOn := t'.soundOn, st := t'.st, faultInfo := t'.faultInfo, waitReg := t'.waitReg }

/-! ### The events (60_exceptions.md, 70_reset_and_hazards.md) -/

/-- Rule R160: each timer goes down by one while non-zero, the sound signal tests ST after the decrement, nothing else
changes; `n` Ticks take `n` off, never below zero. That Tick runs in a faulted machine too is the spec's decision D1 (log
entry 6), that the sound signal is a latch that holds until the next Tick is its decision D20 (log entry 24), and the clause
about `n` Ticks is an induction over the rule. -/
def Obligations.TickCountsTimersDown : Prop :=
  ∀ (font : Font) (s : State),
    (∃ t, applyEvent font .tick s = .next t ∧ t = { s with dt := t.dt, st := t.st, soundOn := t.soundOn } ∧
      t.dt.toNat = s.dt.toNat - 1 ∧ t.st.toNat = s.st.toNat - 1 ∧ (t.soundOn = true ↔ t.st ≠ 0)) ∧
    ∀ n, ∃ t, runEvents font (List.replicate n .tick) s = .next t ∧
      t.dt.toNat = s.dt.toNat - n ∧ t.st.toNat = s.st.toNat - n

/-- Rules R161 and R162: SetKey sets its key's level; a press, and only a press, while waiting and not faulted also ends the
wait and writes the code to the recorded register; `pc` and all else stay. That any press ends a wait is the spec's decision
D11 (log entry 19), the 4-bit index its decision D23 (log entry 12). The latch in its condition is decision D1 (log entry 6).
-/
def Obligations.SetKeySetsTheLevelAndEndsAWait : Prop :=
  ∀ (font : Font) (k : Nibble) (pressed : Bool) (s : State),
    ∃ t, applyEvent font (.setKey k pressed) s = .next t ∧
      t = { s with keys := t.keys, v := t.v, waiting := t.waiting } ∧
      (∀ j, t.key j = if j = k then pressed else s.key j) ∧
      (pressed = true ∧ s.waiting = true ∧ s.fault = .noFault →
        t.waiting = false ∧ ∀ r, (t.reg r).toNat = if r = s.waitReg then k.toNat else (s.reg r).toNat) ∧
      (¬ (pressed = true ∧ s.waiting = true ∧ s.fault = .noFault) →
        t.waiting = s.waiting ∧ ∀ r, t.reg r = s.reg r)

/-- Rule R163: AckRedraw clears the mark and nothing else. The event is the spec's own, decision D10 (log entry 18). -/
def Obligations.AckRedrawClearsOnlyTheMark : Prop :=
  ∀ (font : Font) (s : State), ∃ t, applyEvent font .ackRedraw s = .next t ∧ t.redraw = false ∧
    t = { s with redraw := t.redraw }

/-- Rule R180: in every state, for every font and every pair of quirk flags, `Reset` leaves the values of the table. That the
keys and the redraw mark are 0 is the spec's reading, decisions D24 and D10 (log entries 22 and 18). So are the sound
signal's, D20 (log entry 24), and the latch's, D1 (log entry 6). -/
def Obligations.ResetLeavesTheTabledValues : Prop :=
  ∀ (font : Font) (cfg : Quirks) (s : State),
    ∃ t, applyEvent font (.reset cfg) s = .next t ∧
      (∀ a, t.readByte a = if h : a.toNat < 80 then font[a.toNat] else 0) ∧
      (∀ r, t.reg r = 0) ∧ t.i = 0 ∧ t.pc = 0x200 ∧ t.sp = 0 ∧ (∀ j : Fin 16, t.stack[j] = 0) ∧
      t.dt = 0 ∧ t.st = 0 ∧ t.soundOn = false ∧ (∀ py px, t.pixel py px = false) ∧ t.redraw = false ∧
      (∀ k, t.key k = false) ∧ t.waiting = false ∧ t.waitReg = 0 ∧ t.fault = .noFault ∧ t.faultInfo = 0 ∧
      t.quirks.shiftQuirk = cfg.shiftQuirk ∧ t.quirks.incrementIndexQuirk = cfg.incrementIndexQuirk

/-- The host's reset state is what the `Reset` event leaves with the model's default arguments, which the spec presumes (D14,
D15; log entries 4 and 5); its memory reads as glyph 5 at 0x019 and as 0 at the entry point. That the default font lists no
cell is the model's form of memory (log entry 13), `draws` at 0 its own choice (log entry 1). -/
def Obligations.ResetStateIsTheDefaultReset : Prop :=
  State.reset = resetWith defaultFont ⟨true, true⟩ State.reset ∧
  (∀ a : Addr, 80 ≤ a.toNat → State.reset.readByte a = 0) ∧
  (State.reset.readByte 0x019 = 0xF0 ∧ State.reset.readByte 0x01A = 0x80 ∧ State.reset.readByte 0x01B = 0xF0 ∧
    State.reset.readByte 0x01C = 0x10 ∧ State.reset.readByte 0x01D = 0xF0)

/-- Rules R181 and R182: up to 3584 bytes, success: the reset state with the current quirk flags, and the bytes from 0x200 up,
`pc` at 0x200; longer, failure and no change at all. That a failed load changes nothing and a load keeps the quirk flags is
the spec's decision D17 (log entry 16). The reset it performs keeps the model's own counter `draws` (log entry 1), and its
values rest on what those of `Reset` do (log entries 6, 18, 22 and 24). -/
def Obligations.LoadProgramCopiesOrFails : Prop :=
  ∀ (font : Font) (bytes : List Byte) (s : State),
    (bytes.length ≤ 3584 → ∃ t, loadProgram font bytes s = (.success, t) ∧
      applyEvent font (.loadProgram bytes) s = .next t ∧ t.pc = 0x200 ∧
      t = { resetWith font s.quirks s with mem := t.mem } ∧
      (∀ (j : Nat) (hj : j < bytes.length), t.readByte (BitVec.ofNat 12 (0x200 + j)) = bytes[j]) ∧
      (∀ a : Addr, a.toNat < 0x200 ∨ 0x200 + bytes.length ≤ a.toNat →
        t.readByte a = if h : a.toNat < 80 then font[a.toNat] else 0)) ∧
    (3584 < bytes.length → loadProgram font bytes s = (.failure, s) ∧ applyEvent font (.loadProgram bytes) s = .next s)

/-! ### Invariants (10_state.md R26) -/

/-- The reset state meets the invariant. The canonical form is the model's (log entry 13), the latch's reset value the spec's
decision D1 (log entry 6). -/
def Obligations.ResetMeetsTheInvariant : Prop := State.reset.Inv

/-- Every Step keeps the invariant, from every state that meets it: canonical memory, `pc` at most 0x10FE, the entries in use
below 4094, and no wait while faulted (R13, R26, R86, R162). The canonical form is the model's (log entry 13); the clauses on
the latch rest on decision D1 (log entry 6), those on `pc` and the stack on the guard at 4094, D18 (log entry 17). -/
def Obligations.StepKeepsTheInvariant : Prop :=
  ∀ s t : State, s.Inv → step s = .next t → t.Inv

/-- Every sequence of the six events, in any order, with any arguments, completes and keeps the invariant (R50). The six
events in any order are decision D13 (log entry 2), the canonical form is the model's (log entry 13), the clauses on the latch
and on `pc` rest on D1 and D18 (log entries 6 and 17). -/
def Obligations.EveryRunCompletesAndKeepsTheInvariant : Prop :=
  ∀ (font : Font) (es : List Event) (s : State), s.Inv → ∃ t, runEvents font es s = .next t ∧ t.Inv

/-- Rule R26: the source's unenforced invariants do fail in reachable states: an odd `pc`, a `pc` below 0x200, `sp = 16`, none
of them with a fault. That such a `pc` is accepted is decision D18 (log entry 17), that `sp` reaches 16 conflict C1's
resolution (log entry 12). -/
def Obligations.UnenforcedInvariantsFail : Prop :=
  (∃ es t, runEvents defaultFont es State.reset = .next t ∧ t.fault = .noFault ∧ t.pc.toNat % 2 = 1) ∧
  (∃ es t, runEvents defaultFont es State.reset = .next t ∧ t.fault = .noFault ∧ t.pc.toNat < 0x200) ∧
  (∃ es t, runEvents defaultFont es State.reset = .next t ∧ t.fault = .noFault ∧ t.sp.val = 16)

/-- The canonical form makes equal memories equal data: memories that read alike at all 4096 addresses are the same list (the
model's form of R40's array). The canonical form is the model's choice (log entry 13). -/
def Obligations.EqualReadsAreEqualMemories : Prop :=
  ∀ m n : Memory, m.wf → n.wf → (∀ a, m.read a = n.read a) → m = n
end

