-- ==== Sys2Proof/Laws/Decode.lean ====
section
/-!
SUPPORT. A word as its four nibbles (spec 30_encoding.md R61, R62): the value of each form and each field, how a row's mask and pattern
compare nibble by nibble, and every word as a form of its fields. A proof about decoding writes the word as
`formXyn fam x y n`, and each of the 34 comparisons of R64 is then one of single nibbles.
-/
namespace Sys2Proof

/-- A concatenation of a high part and a low part, as a number. -/
theorem toNat_append_eq {v w : Nat} (a : BitVec v) (b : BitVec w) : (a ++ b).toNat = a.toNat * 2 ^ w + b.toNat := by
  rw [BitVec.toNat_append, ← Nat.shiftLeft_add_eq_or_of_lt b.isLt, Nat.shiftLeft_eq]

theorem formXyn_toNat (a b c d : Nibble) :
    (formXyn a b c d).toNat = a.toNat * 4096 + b.toNat * 256 + c.toNat * 16 + d.toNat := by
  simp only [formXyn, toNat_append_eq]
  omega

theorem formXkk_toNat (a b : Nibble) (kk : Byte) :
    (formXkk a b kk).toNat = a.toNat * 4096 + b.toNat * 256 + kk.toNat := by
  simp only [formXkk, toNat_append_eq]
  omega

theorem formNnn_toNat (a : Nibble) (nnn : Addr) : (formNnn a nnn).toNat = a.toNat * 4096 + nnn.toNat := by
  simp only [formNnn, toNat_append_eq]
  omega

theorem fieldX_toNat (op : Word) : (fieldX op).toNat = op.toNat / 256 % 16 := by
  simp [fieldX, BitVec.extractLsb'_toNat, Nat.shiftRight_eq_div_pow]

theorem fieldY_toNat (op : Word) : (fieldY op).toNat = op.toNat / 16 % 16 := by
  simp [fieldY, BitVec.extractLsb'_toNat, Nat.shiftRight_eq_div_pow]

theorem fieldN_toNat (op : Word) : (fieldN op).toNat = op.toNat % 16 := by
  simp [fieldN, BitVec.extractLsb'_toNat]

theorem fieldKk_toNat (op : Word) : (fieldKk op).toNat = op.toNat % 256 := by
  simp [fieldKk, BitVec.extractLsb'_toNat]

theorem fieldNnn_toNat (op : Word) : (fieldNnn op).toNat = op.toNat % 4096 := by
  simp [fieldNnn, BitVec.extractLsb'_toNat]

/-- The family digit, bits 15 to 12 (R61). -/
abbrev fieldFam (op : Word) : Nibble := op.extractLsb' 12 4

theorem fieldFam_toNat (op : Word) : (fieldFam op).toNat = op.toNat / 4096 := by
  have := op.isLt
  simp only [fieldFam, BitVec.extractLsb'_toNat, Nat.shiftRight_eq_div_pow]
  omega

/-- Every word is the form of its four nibbles. -/
theorem eq_formXyn (op : Word) : op = formXyn (fieldFam op) (fieldX op) (fieldY op) (fieldN op) := by
  apply BitVec.eq_of_toNat_eq
  rw [formXyn_toNat, fieldFam_toNat, fieldX_toNat, fieldY_toNat, fieldN_toNat]
  have := op.isLt
  omega

theorem formXkk_eq (a b : Nibble) (kk : Byte) :
    formXkk a b kk = formXyn a b (fieldY (formXkk a b kk)) (fieldN (formXkk a b kk)) := by
  apply BitVec.eq_of_toNat_eq
  rw [formXyn_toNat, fieldY_toNat, fieldN_toNat, formXkk_toNat]
  have := kk.isLt
  omega

theorem formNnn_eq (a : Nibble) (nnn : Addr) :
    formNnn a nnn = formXyn a (fieldX (formNnn a nnn)) (fieldY (formNnn a nnn)) (fieldN (formNnn a nnn)) := by
  apply BitVec.eq_of_toNat_eq
  rw [formXyn_toNat, fieldX_toNat, fieldY_toNat, fieldN_toNat, formNnn_toNat]
  have := nnn.isLt
  omega

/-! ### The fields of each form -/

@[simp] theorem fieldX_formXyn (a b c d : Nibble) : fieldX (formXyn a b c d) = b := by
  apply BitVec.eq_of_toNat_eq
  rw [fieldX_toNat, formXyn_toNat]
  omega

@[simp] theorem fieldY_formXyn (a b c d : Nibble) : fieldY (formXyn a b c d) = c := by
  apply BitVec.eq_of_toNat_eq
  rw [fieldY_toNat, formXyn_toNat]
  omega

@[simp] theorem fieldN_formXyn (a b c d : Nibble) : fieldN (formXyn a b c d) = d := by
  apply BitVec.eq_of_toNat_eq
  rw [fieldN_toNat, formXyn_toNat]
  omega

@[simp] theorem fieldX_formXkk (a b : Nibble) (kk : Byte) : fieldX (formXkk a b kk) = b := by
  apply BitVec.eq_of_toNat_eq
  rw [fieldX_toNat, formXkk_toNat]
  omega

@[simp] theorem fieldKk_formXkk (a b : Nibble) (kk : Byte) : fieldKk (formXkk a b kk) = kk := by
  apply BitVec.eq_of_toNat_eq
  rw [fieldKk_toNat, formXkk_toNat]
  omega

@[simp] theorem fieldNnn_formNnn (a : Nibble) (nnn : Addr) : fieldNnn (formNnn a nnn) = nnn := by
  apply BitVec.eq_of_toNat_eq
  rw [fieldNnn_toNat, formNnn_toNat]
  omega

/-! ### A row's comparison, nibble by nibble -/

theorem formXyn_and (a b c d p q r t : Nibble) :
    formXyn a b c d &&& formXyn p q r t = formXyn (a &&& p) (b &&& q) (c &&& r) (d &&& t) := by
  exact BitVec.and_append.trans (congrArg₂ _ BitVec.and_append BitVec.and_append)

theorem formXyn_inj {a b c d p q r t : Nibble} :
    formXyn a b c d = formXyn p q r t ↔ a = p ∧ b = q ∧ c = r ∧ d = t := by
  constructor
  · intro h
    have h' := congrArg BitVec.toNat h
    simp only [formXyn_toNat] at h'
    simp only [← BitVec.toNat_inj]
    omega
  · rintro ⟨rfl, rfl, rfl, rfl⟩
    rfl

theorem and_maskF (a : Nibble) : a &&& 0xF = a := BitVec.and_allOnes

theorem and_mask0 (a : Nibble) : a &&& 0 = 0 := BitVec.and_zero

theorem hits_FFFF (a b c d p q r t : Nibble) (f : Word → Instr) {w : Word} (hw : w = formXyn p q r t) :
    OpcodeRow.hits ⟨0xFFFF, w, f⟩ (formXyn a b c d) = decide (a = p ∧ b = q ∧ c = r ∧ d = t) := by
  have h : (0xFFFF : Word) = formXyn 0xF 0xF 0xF 0xF := by decide
  rw [OpcodeRow.hits, Bool.eq_iff_iff, beq_iff_eq, decide_eq_true_eq, hw, h, formXyn_and, formXyn_inj]
  simp only [and_maskF]

theorem hits_F000 (a b c d p : Nibble) (f : Word → Instr) {w : Word} (hw : w = formXyn p 0 0 0) :
    OpcodeRow.hits ⟨0xF000, w, f⟩ (formXyn a b c d) = decide (a = p) := by
  have h : (0xF000 : Word) = formXyn 0xF 0 0 0 := by decide
  rw [OpcodeRow.hits, Bool.eq_iff_iff, beq_iff_eq, decide_eq_true_eq, hw, h, formXyn_and, formXyn_inj]
  simp only [and_maskF, and_mask0, and_true]

theorem hits_F00F (a b c d p t : Nibble) (f : Word → Instr) {w : Word} (hw : w = formXyn p 0 0 t) :
    OpcodeRow.hits ⟨0xF00F, w, f⟩ (formXyn a b c d) = decide (a = p ∧ d = t) := by
  have h : (0xF00F : Word) = formXyn 0xF 0 0 0xF := by decide
  rw [OpcodeRow.hits, Bool.eq_iff_iff, beq_iff_eq, decide_eq_true_eq, hw, h, formXyn_and, formXyn_inj]
  simp only [and_maskF, and_mask0, true_and]

theorem hits_F0FF (a b c d p r t : Nibble) (f : Word → Instr) {w : Word} (hw : w = formXyn p 0 r t) :
    OpcodeRow.hits ⟨0xF0FF, w, f⟩ (formXyn a b c d) = decide (a = p ∧ c = r ∧ d = t) := by
  have h : (0xF0FF : Word) = formXyn 0xF 0 0xF 0xF := by decide
  rw [OpcodeRow.hits, Bool.eq_iff_iff, beq_iff_eq, decide_eq_true_eq, hw, h, formXyn_and, formXyn_inj]
  simp only [and_maskF, and_mask0, true_and]

/-- A row that matches ends the search. -/
theorem find_row {r : OpcodeRow} {rs : List OpcodeRow} {op : Word} {P : Prop} [Decidable P] (h : r.hits op = decide P) :
    ((r :: rs).find? (·.hits op)).map (·.build op) =
      if P then some (r.build op) else (rs.find? (·.hits op)).map (·.build op) := by
  rw [List.find?_cons, h]
  by_cases hP : P <;> simp [hP]

/-- The decoder as one chain of nibble tests, row by row (R64, R66). -/
theorem decodeWord_formXyn (a b c d : Nibble) :
    decodeWord (formXyn a b c d) =
      if a = 0x0 ∧ b = 0x0 ∧ c = 0xE ∧ d = 0x0 then some .cls
      else if a = 0x0 ∧ b = 0x0 ∧ c = 0xE ∧ d = 0xE then some .ret
      else if a = 0x1 then some (.jp (fieldNnn (formXyn a b c d)))
      else if a = 0x2 then some (.call (fieldNnn (formXyn a b c d)))
      else if a = 0x3 then some (.seImm b (fieldKk (formXyn a b c d)))
      else if a = 0x4 then some (.sneImm b (fieldKk (formXyn a b c d)))
      else if a = 0x5 ∧ d = 0x0 then some (.seReg b c)
      else if a = 0x6 then some (.ldImm b (fieldKk (formXyn a b c d)))
      else if a = 0x7 then some (.addImm b (fieldKk (formXyn a b c d)))
      else if a = 0x8 ∧ d = 0x0 then some (.ldReg b c)
      else if a = 0x8 ∧ d = 0x1 then some (.or b c)
      else if a = 0x8 ∧ d = 0x2 then some (.and b c)
      else if a = 0x8 ∧ d = 0x3 then some (.xor b c)
      else if a = 0x8 ∧ d = 0x4 then some (.addReg b c)
      else if a = 0x8 ∧ d = 0x5 then some (.sub b c)
      else if a = 0x8 ∧ d = 0x6 then some (.shr b c)
      else if a = 0x8 ∧ d = 0x7 then some (.subn b c)
      else if a = 0x8 ∧ d = 0xE then some (.shl b c)
      else if a = 0x9 ∧ d = 0x0 then some (.sneReg b c)
      else if a = 0xA then some (.ldI (fieldNnn (formXyn a b c d)))
      else if a = 0xB then some (.jpV0 (fieldNnn (formXyn a b c d)))
      else if a = 0xC then some (.rnd b (fieldKk (formXyn a b c d)))
      else if a = 0xD then some (.drw b c d)
      else if a = 0xE ∧ c = 0x9 ∧ d = 0xE then some (.skp b)
      else if a = 0xE ∧ c = 0xA ∧ d = 0x1 then some (.sknp b)
      else if a = 0xF ∧ c = 0x0 ∧ d = 0x7 then some (.ldVxDt b)
      else if a = 0xF ∧ c = 0x0 ∧ d = 0xA then some (.ldVxK b)
      else if a = 0xF ∧ c = 0x1 ∧ d = 0x5 then some (.ldDtVx b)
      else if a = 0xF ∧ c = 0x1 ∧ d = 0x8 then some (.ldStVx b)
      else if a = 0xF ∧ c = 0x1 ∧ d = 0xE then some (.addI b)
      else if a = 0xF ∧ c = 0x2 ∧ d = 0x9 then some (.ldF b)
      else if a = 0xF ∧ c = 0x3 ∧ d = 0x3 then some (.ldB b)
      else if a = 0xF ∧ c = 0x5 ∧ d = 0x5 then some (.dump b)
      else if a = 0xF ∧ c = 0x6 ∧ d = 0x5 then some (.load b)
      else none := by
  unfold decodeWord opcodeRows opcodeRowsA opcodeRowsB opcodeRowsC
  simp only [List.cons_append, List.nil_append]
  refine (find_row (hits_FFFF a b c d 0x0 0x0 0xE 0x0 _ (w := 0x00E0) (by decide))).trans (if_congr Iff.rfl (by simp) ?_)
  refine (find_row (hits_FFFF a b c d 0x0 0x0 0xE 0xE _ (w := 0x00EE) (by decide))).trans (if_congr Iff.rfl (by simp) ?_)
  refine (find_row (hits_F000 a b c d 0x1 _ (w := 0x1000) (by decide))).trans (if_congr Iff.rfl (by simp) ?_)
  refine (find_row (hits_F000 a b c d 0x2 _ (w := 0x2000) (by decide))).trans (if_congr Iff.rfl (by simp) ?_)
  refine (find_row (hits_F000 a b c d 0x3 _ (w := 0x3000) (by decide))).trans (if_congr Iff.rfl (by simp) ?_)
  refine (find_row (hits_F000 a b c d 0x4 _ (w := 0x4000) (by decide))).trans (if_congr Iff.rfl (by simp) ?_)
  refine (find_row (hits_F00F a b c d 0x5 0x0 _ (w := 0x5000) (by decide))).trans (if_congr Iff.rfl (by simp) ?_)
  refine (find_row (hits_F000 a b c d 0x6 _ (w := 0x6000) (by decide))).trans (if_congr Iff.rfl (by simp) ?_)
  refine (find_row (hits_F000 a b c d 0x7 _ (w := 0x7000) (by decide))).trans (if_congr Iff.rfl (by simp) ?_)
  refine (find_row (hits_F00F a b c d 0x8 0x0 _ (w := 0x8000) (by decide))).trans (if_congr Iff.rfl (by simp) ?_)
  refine (find_row (hits_F00F a b c d 0x8 0x1 _ (w := 0x8001) (by decide))).trans (if_congr Iff.rfl (by simp) ?_)
  refine (find_row (hits_F00F a b c d 0x8 0x2 _ (w := 0x8002) (by decide))).trans (if_congr Iff.rfl (by simp) ?_)
  refine (find_row (hits_F00F a b c d 0x8 0x3 _ (w := 0x8003) (by decide))).trans (if_congr Iff.rfl (by simp) ?_)
  refine (find_row (hits_F00F a b c d 0x8 0x4 _ (w := 0x8004) (by decide))).trans (if_congr Iff.rfl (by simp) ?_)
  refine (find_row (hits_F00F a b c d 0x8 0x5 _ (w := 0x8005) (by decide))).trans (if_congr Iff.rfl (by simp) ?_)
  refine (find_row (hits_F00F a b c d 0x8 0x6 _ (w := 0x8006) (by decide))).trans (if_congr Iff.rfl (by simp) ?_)
  refine (find_row (hits_F00F a b c d 0x8 0x7 _ (w := 0x8007) (by decide))).trans (if_congr Iff.rfl (by simp) ?_)
  refine (find_row (hits_F00F a b c d 0x8 0xE _ (w := 0x800E) (by decide))).trans (if_congr Iff.rfl (by simp) ?_)
  refine (find_row (hits_F00F a b c d 0x9 0x0 _ (w := 0x9000) (by decide))).trans (if_congr Iff.rfl (by simp) ?_)
  refine (find_row (hits_F000 a b c d 0xA _ (w := 0xA000) (by decide))).trans (if_congr Iff.rfl (by simp) ?_)
  refine (find_row (hits_F000 a b c d 0xB _ (w := 0xB000) (by decide))).trans (if_congr Iff.rfl (by simp) ?_)
  refine (find_row (hits_F000 a b c d 0xC _ (w := 0xC000) (by decide))).trans (if_congr Iff.rfl (by simp) ?_)
  refine (find_row (hits_F000 a b c d 0xD _ (w := 0xD000) (by decide))).trans (if_congr Iff.rfl (by simp) ?_)
  refine (find_row (hits_F0FF a b c d 0xE 0x9 0xE _ (w := 0xE09E) (by decide))).trans (if_congr Iff.rfl (by simp) ?_)
  refine (find_row (hits_F0FF a b c d 0xE 0xA 0x1 _ (w := 0xE0A1) (by decide))).trans (if_congr Iff.rfl (by simp) ?_)
  refine (find_row (hits_F0FF a b c d 0xF 0x0 0x7 _ (w := 0xF007) (by decide))).trans (if_congr Iff.rfl (by simp) ?_)
  refine (find_row (hits_F0FF a b c d 0xF 0x0 0xA _ (w := 0xF00A) (by decide))).trans (if_congr Iff.rfl (by simp) ?_)
  refine (find_row (hits_F0FF a b c d 0xF 0x1 0x5 _ (w := 0xF015) (by decide))).trans (if_congr Iff.rfl (by simp) ?_)
  refine (find_row (hits_F0FF a b c d 0xF 0x1 0x8 _ (w := 0xF018) (by decide))).trans (if_congr Iff.rfl (by simp) ?_)
  refine (find_row (hits_F0FF a b c d 0xF 0x1 0xE _ (w := 0xF01E) (by decide))).trans (if_congr Iff.rfl (by simp) ?_)
  refine (find_row (hits_F0FF a b c d 0xF 0x2 0x9 _ (w := 0xF029) (by decide))).trans (if_congr Iff.rfl (by simp) ?_)
  refine (find_row (hits_F0FF a b c d 0xF 0x3 0x3 _ (w := 0xF033) (by decide))).trans (if_congr Iff.rfl (by simp) ?_)
  refine (find_row (hits_F0FF a b c d 0xF 0x5 0x5 _ (w := 0xF055) (by decide))).trans (if_congr Iff.rfl (by simp) ?_)
  refine (find_row (hits_F0FF a b c d 0xF 0x6 0x5 _ (w := 0xF065) (by decide))).trans (if_congr Iff.rfl (by simp) ?_)
  rfl

end Sys2Proof
end

