-- ==== Sys2Proof/Laws/Display.lean ====
section
/-!
SUPPORT. What a draw does, pixel by pixel (spec 44_display.md R141 to R144): a pixel ends inverted exactly when a 1 bit of the sprite
lands on it, and there is a collision exactly when a 1 bit lands on a pixel that was on.
-/
namespace Sys2Proof.Machine

/-- Column `c` of a row starting at `x0` that carries a 1 bit and lands at framebuffer column `x` (R142, R143). -/
abbrev ColumnOn (x0 row : Byte) (k : Nat) (x : BitVec 6) : Prop :=
  ∃ c, c < k ∧ x = BitVec.ofNat 6 (x0.toNat + c) ∧ row.getLsbD (7 - c) = true

/-- A 1 bit of the first `n` sprite rows that lands at (`x`, `y`). -/
abbrev SpriteOn (x0 y0 : Byte) (rowAt : Nat → Byte) (n : Nat) (y : BitVec 5) (x : BitVec 6) : Prop :=
  ∃ r, r < n ∧ y = BitVec.ofNat 5 (y0.toNat + r) ∧ ColumnOn x0 (rowAt r) 8 x

@[simp] theorem Frame.get_put (f : Frame) (y y' : BitVec 5) (x x' : BitVec 6) (on : Bool) :
    (f.put y x on).get y' x' = if y' = y ∧ x' = x then on else f.get y' x' := by
  unfold Frame.get Frame.put
  by_cases hy : y' = y
  · subst hy
    by_cases hx : x' = x
    · subst hx; simp
    · have : ¬ x.toNat = x'.toNat := fun e => hx (BitVec.toNat_inj.1 e.symm)
      simp [hx, this]
  · have : ¬ y.toNat = y'.toNat := fun e => hy (BitVec.toNat_inj.1 e.symm)
    simp [hy, this]

@[simp] theorem Frame.get_clear (y : BitVec 5) (x : BitVec 6) : Frame.clear.get y x = false := by
  simp [Frame.get, Frame.clear]

/-- Two framebuffers are equal when every pixel reads alike. -/
theorem Frame.ext_get {f g : Frame} (h : ∀ y x, f.get y x = g.get y x) : f = g := by
  apply Vector.ext
  intro r hr
  apply Vector.ext
  intro c hc
  have := h (BitVec.ofNat 5 r) (BitVec.ofNat 6 c)
  have h1 : r % 32 = r := Nat.mod_eq_of_lt hr
  have h2 : c % 64 = c := Nat.mod_eq_of_lt hc
  simpa [Frame.get, h1, h2] using this

/-- One sprite bit inverts its pixel and no other. -/
theorem Blit.get_bit (b : Blit) (y y' : BitVec 5) (x x' : BitVec 6) (on : Bool) :
    (b.bit y x on).fb.get y' x' = (b.fb.get y' x' ^^ decide ((y' = y ∧ x' = x) ∧ on = true)) := by
  cases on
  · simp [Blit.bit]
  · by_cases h : y' = y ∧ x' = x
    · obtain ⟨rfl, rfl⟩ := h
      simp [Blit.bit]
    · simp [Blit.bit, h]

theorem Blit.hit_bit (b : Blit) (y : BitVec 5) (x : BitVec 6) (on : Bool) :
    (b.bit y x on).hit = (b.hit || (on && b.fb.get y x)) := by
  cases on <;> simp [Blit.bit]

/-- "no framebuffer cell is touched twice by one DRW" (R142): within a row. -/
theorem column_inj {x0 : Byte} {c d : Nat} (hc : c < 8) (hd : d < 8)
    (h : BitVec.ofNat 6 (x0.toNat + c) = BitVec.ofNat 6 (x0.toNat + d)) : c = d := by
  have := congrArg BitVec.toNat h
  simp only [BitVec.toNat_ofNat] at this
  omega

/-- The same down the rows. -/
theorem row_inj {y0 : Byte} {r q : Nat} (hr : r < 16) (hq : q < 16)
    (h : BitVec.ofNat 5 (y0.toNat + r) = BitVec.ofNat 5 (y0.toNat + q)) : r = q := by
  have := congrArg BitVec.toNat h
  simp only [BitVec.toNat_ofNat] at this
  omega

theorem not_columnOn_zero {x0 row : Byte} {x : BitVec 6} : ¬ ColumnOn x0 row 0 x :=
  fun ⟨_, h, _⟩ => Nat.not_lt_zero _ h

theorem not_spriteOn_zero {x0 y0 : Byte} {rowAt : Nat → Byte} {y : BitVec 5} {x : BitVec 6} :
    ¬ SpriteOn x0 y0 rowAt 0 y x :=
  fun ⟨_, h, _⟩ => Nat.not_lt_zero _ h

theorem columnOn_succ {x0 row : Byte} {k : Nat} {x : BitVec 6} :
    ColumnOn x0 row (k + 1) x ↔
      ColumnOn x0 row k x ∨ (x = BitVec.ofNat 6 (x0.toNat + k) ∧ row.getLsbD (7 - k) = true) := by
  constructor
  · rintro ⟨c, hc, h⟩
    rcases Nat.lt_succ_iff_lt_or_eq.1 hc with hc | rfl
    · exact .inl ⟨c, hc, h⟩
    · exact .inr h
  · rintro (⟨c, hc, h⟩ | h)
    · exact ⟨c, Nat.lt_succ_of_lt hc, h⟩
    · exact ⟨k, Nat.lt_succ_self k, h⟩

theorem spriteOn_succ {x0 y0 : Byte} {rowAt : Nat → Byte} {n : Nat} {y : BitVec 5} {x : BitVec 6} :
    SpriteOn x0 y0 rowAt (n + 1) y x ↔
      SpriteOn x0 y0 rowAt n y x ∨ (y = BitVec.ofNat 5 (y0.toNat + n) ∧ ColumnOn x0 (rowAt n) 8 x) := by
  constructor
  · rintro ⟨c, hc, h⟩
    rcases Nat.lt_succ_iff_lt_or_eq.1 hc with hc | rfl
    · exact .inl ⟨c, hc, h⟩
    · exact .inr h
  · rintro (⟨c, hc, h⟩ | h)
    · exact ⟨c, Nat.lt_succ_of_lt hc, h⟩
    · exact ⟨n, Nat.lt_succ_self n, h⟩

/-- Two inversions by disjoint conditions are one inversion by either. -/
theorem xor_decide_or {P Q : Prop} [Decidable P] [Decidable Q] (a : Bool) (h : ¬ (P ∧ Q)) :
    ((a ^^ decide P) ^^ decide Q) = (a ^^ decide (P ∨ Q)) := by
  by_cases hP : P <;> by_cases hQ : Q <;> simp_all

/-- What one sprite row does to every pixel. -/
theorem Blit.get_columns (b : Blit) (y y' : BitVec 5) (x0 row : Byte) (x' : BitVec 6) {k : Nat} (hk : k ≤ 8) :
    (b.columns y x0 row k).fb.get y' x' = (b.fb.get y' x' ^^ decide (y' = y ∧ ColumnOn x0 row k x')) := by
  induction k with
  | zero => rw [decide_eq_false (fun h => not_columnOn_zero h.2), Bool.xor_false]; rfl
  | succ k ih =>
    rw [Blit.columns, Blit.get_bit, ih (by omega), xor_decide_or]
    · congr 1
      rw [decide_eq_decide, columnOn_succ, and_assoc, and_or_left]
    · rintro ⟨⟨-, c, hc, rfl, -⟩, ⟨-, h⟩, -⟩
      have := column_inj (by omega) (by omega) h
      omega

theorem Blit.hit_columns (b : Blit) (y : BitVec 5) (x0 row : Byte) {k : Nat} (hk : k ≤ 8) :
    (b.columns y x0 row k).hit =
      (b.hit || decide (∃ x', ColumnOn x0 row k x' ∧ b.fb.get y x' = true)) := by
  induction k with
  | zero => rw [decide_eq_false (fun ⟨_, h, _⟩ => not_columnOn_zero h), Bool.or_false]; rfl
  | succ k ih =>
    rw [Blit.columns, Blit.hit_bit, ih (by omega), Bool.or_assoc]
    congr 1
    have hno : ¬ (y = y ∧ ColumnOn x0 row k (BitVec.ofNat 6 (x0.toNat + k))) := by
      rintro ⟨-, c, hc, h, -⟩
      have := column_inj (by omega) (by omega) h
      omega
    rw [Blit.get_columns _ _ _ _ _ _ (by omega), decide_eq_false hno, Bool.xor_false, Bool.eq_iff_iff]
    simp only [Bool.or_eq_true, decide_eq_true_eq, Bool.and_eq_true, columnOn_succ]
    constructor
    · rintro (⟨x', h, hg⟩ | ⟨h, hg⟩)
      · exact ⟨x', .inl h, hg⟩
      · exact ⟨_, .inr ⟨rfl, h⟩, hg⟩
    · rintro ⟨x', h | ⟨rfl, h⟩, hg⟩
      · exact .inl ⟨x', h, hg⟩
      · exact .inr ⟨h, hg⟩

/-- What a draw of at most 16 rows does to every pixel (R141, R142). -/
theorem Blit.get_rows (b : Blit) (x0 y0 : Byte) (rowAt : Nat → Byte) (y : BitVec 5) (x : BitVec 6) {n : Nat} (hn : n ≤ 16) :
    (b.rows x0 y0 rowAt n).fb.get y x = (b.fb.get y x ^^ decide (SpriteOn x0 y0 rowAt n y x)) := by
  induction n with
  | zero => rw [decide_eq_false not_spriteOn_zero, Bool.xor_false]; rfl
  | succ n ih =>
    rw [Blit.rows, Blit.get_columns _ _ _ _ _ _ (Nat.le_refl 8), ih (by omega), xor_decide_or]
    · congr 1
      rw [decide_eq_decide, spriteOn_succ]
    · rintro ⟨⟨r, hr, rfl, -⟩, h, -⟩
      have := row_inj (by omega) (by omega) h
      omega

/-- There is a collision iff a 1 bit of the sprite lands on a pixel that was on before the draw (R144). -/
theorem Blit.hit_rows (b : Blit) (x0 y0 : Byte) (rowAt : Nat → Byte) {n : Nat} (hn : n ≤ 16) :
    (b.rows x0 y0 rowAt n).hit =
      (b.hit || decide (∃ y x, SpriteOn x0 y0 rowAt n y x ∧ b.fb.get y x = true)) := by
  induction n with
  | zero => rw [decide_eq_false (fun ⟨_, _, h, _⟩ => not_spriteOn_zero h), Bool.or_false]; rfl
  | succ n ih =>
    rw [Blit.rows, Blit.hit_columns _ _ _ _ (Nat.le_refl 8), ih (by omega), Bool.or_assoc]
    congr 1
    have hno : ∀ x', ¬ SpriteOn x0 y0 rowAt n (BitVec.ofNat 5 (y0.toNat + n)) x' := by
      rintro x' ⟨r, hr, h, -⟩
      have := row_inj (by omega) (by omega) h
      omega
    rw [Bool.eq_iff_iff]
    simp only [Blit.get_rows _ _ _ _ _ _ (show n ≤ 16 by omega), hno, decide_false, Bool.xor_false, Bool.or_eq_true,
      decide_eq_true_eq, spriteOn_succ]
    constructor
    · rintro (⟨y, x, h, hg⟩ | ⟨x, h, hg⟩)
      · exact ⟨y, x, .inl h, hg⟩
      · exact ⟨_, x, .inr ⟨rfl, h⟩, hg⟩
    · rintro ⟨y, x, h | ⟨rfl, h⟩, hg⟩
      · exact .inl ⟨y, x, h, hg⟩
      · exact .inr ⟨x, h, hg⟩

/-- Every pixel after the blit of DRW (R141). -/
theorem State.get_blit (s : State) (x y n : Nibble) (py : BitVec 5) (px : BitVec 6) :
    (s.blit x y n).fb.get py px = (s.pixel py px ^^ decide (SpriteOn (s.reg x) (s.reg y) s.dataByte n.toNat py px)) :=
  Blit.get_rows _ _ _ _ _ _ (Nat.le_of_lt n.isLt)

/-- The collision of DRW (R144). -/
theorem State.hit_blit (s : State) (x y n : Nibble) :
    (s.blit x y n).hit =
      decide (∃ py px, SpriteOn (s.reg x) (s.reg y) s.dataByte n.toNat py px ∧ s.pixel py px = true) := by
  rw [State.blit, Blit.hit_rows _ _ _ _ (Nat.le_of_lt n.isLt), Bool.false_or]
  rfl

end Sys2Proof.Machine
end

