-- ==== Sys2Proof/Laws/Memory.lean ====
section
/-!
SUPPORT. The laws of memory (spec 20_memory.md R44): a read after a write, and every memory operation keeps the canonical form.
-/
namespace Sys2Proof.Machine

/-! ### Looking up, listing, taking off -/

theorem Memory.find?_erase (m : Memory) (a b : Nat) :
    Memory.find? (m.erase a) b = if b = a then none else Memory.find? m b := by
  induction m with
  | nil => simp [Memory.erase, Memory.find?]
  | cons c m ih =>
    simp only [Memory.erase, Memory.find?]
    split
    · rename_i hc
      rw [ih]
      by_cases h : b = a
      · simp [h]
      · have : ¬ c.1 = b := fun e => h (e.symm.trans hc)
        simp [h, this]
    · rename_i hc
      simp only [Memory.find?, ih]
      by_cases h : b = a
      · subst h; simp [hc]
      · simp [h]

theorem Memory.find?_insert (m : Memory) (a : Nat) (v : Byte) (b : Nat) :
    Memory.find? (m.insert a v) b = if b = a then some v else Memory.find? m b := by
  induction m with
  | nil => simp [Memory.insert, Memory.find?, eq_comm]
  | cons c m ih =>
    simp only [Memory.insert]
    split
    · simp [Memory.find?, eq_comm]
    · split
      · rename_i h1 h2
        by_cases h : b = a
        · simp [Memory.find?, h]
        · have : ¬ a = b := fun e => h e.symm
          have h3 : ¬ c.1 = b := fun e => h (e.symm.trans h2.symm)
          simp [Memory.find?, h, this, h3]
      · rename_i h1 h2
        simp only [Memory.find?, ih]
        by_cases h : b = a
        · have : ¬ c.1 = a := fun e => h2 e.symm
          simp [h, this]
        · simp [h]

/-- A cell reads as what was last written to it, and a write changes only its cell (R44). -/
@[simp] theorem Memory.read_write (m : Memory) (a b : Addr) (v : Byte) :
    (m.write a v).read b = if b = a then v else m.read b := by
  have hab : (b.toNat = a.toNat) = (b = a) := propext BitVec.toNat_inj
  unfold Memory.read Memory.write
  split
  · rename_i h
    simp only [Memory.find?_erase, hab]
    by_cases hb : b = a
    · simp [hb, h]
    · simp [hb]
  · simp only [Memory.find?_insert, hab]
    by_cases hb : b = a
    · simp [hb]
    · simp [hb]

/-! ### The canonical form -/

theorem Memory.mem_erase {m : Memory} {a : Nat} {c : Host.Cell} (h : c ∈ m.erase a) : c ∈ m ∧ c.1 ≠ a := by
  induction m with
  | nil => simp [Memory.erase] at h
  | cons d m ih =>
    simp only [Memory.erase] at h
    split at h
    · exact ⟨List.mem_cons_of_mem _ (ih h).1, (ih h).2⟩
    · rename_i hd
      rcases List.mem_cons.1 h with rfl | h'
      · exact ⟨List.mem_cons_self, hd⟩
      · exact ⟨List.mem_cons_of_mem _ (ih h').1, (ih h').2⟩

theorem Memory.mem_insert {m : Memory} {a : Nat} {v : Byte} {c : Host.Cell} (h : c ∈ m.insert a v) :
    c = (a, v) ∨ c ∈ m := by
  induction m with
  | nil => simpa [Memory.insert] using h
  | cons d m ih =>
    simp only [Memory.insert] at h
    split at h
    · rcases List.mem_cons.1 h with rfl | h'
      · exact .inl rfl
      · exact .inr h'
    · split at h
      · rcases List.mem_cons.1 h with rfl | h'
        · exact .inl rfl
        · exact .inr (List.mem_cons_of_mem _ h')
      · rcases List.mem_cons.1 h with rfl | h'
        · exact .inr List.mem_cons_self
        · rcases ih h' with h'' | h''
          · exact .inl h''
          · exact .inr (List.mem_cons_of_mem _ h'')

theorem Memory.rising_erase {m : Memory} (a : Nat) (h : m.Pairwise (fun c d => c.1 < d.1)) :
    (m.erase a).Pairwise (fun c d => c.1 < d.1) := by
  induction m with
  | nil => simp [Memory.erase]
  | cons d m ih =>
    rw [List.pairwise_cons] at h
    simp only [Memory.erase]
    split
    · exact ih h.2
    · exact List.pairwise_cons.2 ⟨fun c hc => h.1 c (Memory.mem_erase hc).1, ih h.2⟩

theorem Memory.rising_insert {m : Memory} (a : Nat) (v : Byte) (h : m.Pairwise (fun c d => c.1 < d.1)) :
    (m.insert a v).Pairwise (fun c d => c.1 < d.1) := by
  induction m with
  | nil => simp [Memory.insert]
  | cons d m ih =>
    have h' := List.pairwise_cons.1 h
    simp only [Memory.insert]
    split
    · rename_i had
      refine List.pairwise_cons.2 ⟨fun c hc => ?_, h⟩
      rcases List.mem_cons.1 hc with rfl | hc
      · exact had
      · exact Nat.lt_trans had (h'.1 c hc)
    · split
      · rename_i had
        refine List.pairwise_cons.2 ⟨fun c hc => ?_, h'.2⟩
        have := h'.1 c hc
        exact had ▸ this
      · refine List.pairwise_cons.2 ⟨fun c hc => ?_, ih h'.2⟩
        rcases Memory.mem_insert hc with rfl | hc
        · simp only; omega
        · exact h'.1 c hc

/-- Every write keeps the canonical form. -/
theorem Memory.wf_write {m : Memory} (h : m.wf) (a : Addr) (v : Byte) : (m.write a v).wf := by
  unfold Memory.write
  split
  · exact ⟨Memory.rising_erase _ h.1, fun c hc => h.2 c (Memory.mem_erase hc).1⟩
  · rename_i hv
    refine ⟨Memory.rising_insert _ _ h.1, fun c hc => ?_⟩
    rcases Memory.mem_insert hc with rfl | hc
    · exact ⟨a.isLt, hv⟩
    · exact h.2 c hc

/-- Every run of writes keeps it. -/
theorem Memory.wf_writeBytes {m : Memory} (h : m.wf) (base : Nat) (bs : List Byte) : (m.writeBytes base bs).wf := by
  induction bs generalizing m base with
  | nil => exact h
  | cons b bs ih => exact ih (Memory.wf_write h _ _) _

/-- The memory after reset has it (nothing is listed). -/
theorem reset_mem_wf : State.reset.mem.wf := by
  simp [State.reset, Memory.wf]

theorem resetMemory_wf (font : Font) : (resetMemory font).wf :=
  Memory.wf_writeBytes reset_mem_wf 0 font.toList

/-- The bulk store keeps it. -/
theorem storeRegs_wf {s : State} (h : s.mem.wf) (k : Nat) : (s.storeRegs k).wf := by
  induction k with
  | zero => exact h
  | succ k ih => exact Memory.wf_write ih _ _

/-! ### Runs of bytes -/

/-- What `LoadProgram` checks (R181). -/
theorem romWf_iff {bytes : List Byte} : romWf bytes = true ↔ bytes.length ≤ 3584 := by
  rw [romWf, decide_eq_true_eq]
  rfl

/-- A run of bytes written inside the memory reads back byte for byte, and every other cell is as before. -/
theorem Memory.read_writeBytes (m : Memory) (base : Nat) (bs : List Byte) (hfit : base + bs.length ≤ 4096) (a : Addr) :
    (m.writeBytes base bs).read a =
      if h : base ≤ a.toNat ∧ a.toNat < base + bs.length then bs[a.toNat - base]'(by omega) else m.read a := by
  induction bs generalizing m base with
  | nil =>
    have h : ¬ (base ≤ a.toNat ∧ a.toNat < base + ([] : List Byte).length) := by simp only [List.length_nil]; omega
    rw [dif_neg h]
    rfl
  | cons b bs ih =>
    rw [List.length_cons] at hfit
    have hbase : (a = BitVec.ofNat 12 base) = (a.toNat = base) := by
      rw [← BitVec.toNat_inj, BitVec.toNat_ofNat, Nat.mod_eq_of_lt (by omega)]
    rw [Memory.writeBytes, ih _ (base + 1) (by omega), Memory.read_write]
    simp only [hbase, List.length_cons]
    by_cases h0 : a.toNat = base
    · rw [dif_neg (by omega), if_pos h0, dif_pos (by omega)]
      simp [h0]
    · rw [if_neg h0]
      by_cases h1 : base + 1 ≤ a.toNat ∧ a.toNat < base + 1 + bs.length
      · have h3 : a.toNat - base = (a.toNat - (base + 1)) + 1 := by omega
        rw [dif_pos h1, dif_pos (by omega)]
        simp [h3]
      · rw [dif_neg h1, dif_neg (by omega)]

/-- The bytes of memory after reset: `FONT`, then zero (R27, R180), whatever the font. -/
theorem resetMemory_read (font : Font) (a : Addr) :
    (resetMemory font).read a = if h : a.toNat < 80 then font[a.toNat] else 0 := by
  rw [resetMemory, Memory.read_writeBytes _ _ _ (by simp)]
  by_cases h : a.toNat < 80
  · simp [h]
  · have hr : resetByte a.toNat = 0 := by
      unfold resetByte
      rw [List.getD_eq_default]
      simpa [fontBytes, fontBytesLow, fontBytesHigh] using h
    simp [h, Memory.read, Memory.find?, hr]

end Sys2Proof.Machine
end

