-- ==== Sys2Proof/Laws/State.lean ====
section
/-!
SUPPORT. One lemma per field per update of the state, each true by unfolding the update, so that no proof unfolds a record update;
and what the accessors `reg`, `key`, `pixel` and `readByte` give after each update.
-/
namespace Sys2Proof.Machine

variable (s : State)

/-! ### `State.setReg` -/
@[simp] theorem State.setReg_mem (x : Nibble) (b : Byte) : (s.setReg x b).mem = s.mem := rfl
@[simp] theorem State.setReg_v (x : Nibble) (b : Byte) : (s.setReg x b).v = s.v.set x.toNat b x.isLt := rfl
@[simp] theorem State.setReg_i (x : Nibble) (b : Byte) : (s.setReg x b).i = s.i := rfl
@[simp] theorem State.setReg_pc (x : Nibble) (b : Byte) : (s.setReg x b).pc = s.pc := rfl
@[simp] theorem State.setReg_sp (x : Nibble) (b : Byte) : (s.setReg x b).sp = s.sp := rfl
@[simp] theorem State.setReg_stack (x : Nibble) (b : Byte) : (s.setReg x b).stack = s.stack := rfl
@[simp] theorem State.setReg_dt (x : Nibble) (b : Byte) : (s.setReg x b).dt = s.dt := rfl
@[simp] theorem State.setReg_st (x : Nibble) (b : Byte) : (s.setReg x b).st = s.st := rfl
@[simp] theorem State.setReg_fb (x : Nibble) (b : Byte) : (s.setReg x b).fb = s.fb := rfl
@[simp] theorem State.setReg_keys (x : Nibble) (b : Byte) : (s.setReg x b).keys = s.keys := rfl
@[simp] theorem State.setReg_waiting (x : Nibble) (b : Byte) : (s.setReg x b).waiting = s.waiting := rfl
@[simp] theorem State.setReg_waitReg (x : Nibble) (b : Byte) : (s.setReg x b).waitReg = s.waitReg := rfl
@[simp] theorem State.setReg_redraw (x : Nibble) (b : Byte) : (s.setReg x b).redraw = s.redraw := rfl
@[simp] theorem State.setReg_soundOn (x : Nibble) (b : Byte) : (s.setReg x b).soundOn = s.soundOn := rfl
@[simp] theorem State.setReg_fault (x : Nibble) (b : Byte) : (s.setReg x b).fault = s.fault := rfl
@[simp] theorem State.setReg_faultInfo (x : Nibble) (b : Byte) : (s.setReg x b).faultInfo = s.faultInfo := rfl
@[simp] theorem State.setReg_quirks (x : Nibble) (b : Byte) : (s.setReg x b).quirks = s.quirks := rfl
@[simp] theorem State.setReg_draws (x : Nibble) (b : Byte) : (s.setReg x b).draws = s.draws := rfl
@[simp] theorem State.setReg_key (x : Nibble) (b : Byte) (j : Nibble) : (s.setReg x b).key j = s.key j := rfl
@[simp] theorem State.setReg_pixel (x : Nibble) (b : Byte) (py : BitVec 5) (px : BitVec 6) : (s.setReg x b).pixel py px = s.pixel py px := rfl
@[simp] theorem State.setReg_readByte (x : Nibble) (b : Byte) (a : Addr) : (s.setReg x b).readByte a = s.readByte a := rfl

/-! ### `State.setResultAndFlag` -/
@[simp] theorem State.setResultAndFlag_mem (x : Nibble) (b c : Byte) : (s.setResultAndFlag x b c).mem = s.mem := rfl
@[simp] theorem State.setResultAndFlag_i (x : Nibble) (b c : Byte) : (s.setResultAndFlag x b c).i = s.i := rfl
@[simp] theorem State.setResultAndFlag_pc (x : Nibble) (b c : Byte) : (s.setResultAndFlag x b c).pc = s.pc := rfl
@[simp] theorem State.setResultAndFlag_sp (x : Nibble) (b c : Byte) : (s.setResultAndFlag x b c).sp = s.sp := rfl
@[simp] theorem State.setResultAndFlag_stack (x : Nibble) (b c : Byte) : (s.setResultAndFlag x b c).stack = s.stack := rfl
@[simp] theorem State.setResultAndFlag_dt (x : Nibble) (b c : Byte) : (s.setResultAndFlag x b c).dt = s.dt := rfl
@[simp] theorem State.setResultAndFlag_st (x : Nibble) (b c : Byte) : (s.setResultAndFlag x b c).st = s.st := rfl
@[simp] theorem State.setResultAndFlag_fb (x : Nibble) (b c : Byte) : (s.setResultAndFlag x b c).fb = s.fb := rfl
@[simp] theorem State.setResultAndFlag_keys (x : Nibble) (b c : Byte) : (s.setResultAndFlag x b c).keys = s.keys := rfl
@[simp] theorem State.setResultAndFlag_waiting (x : Nibble) (b c : Byte) : (s.setResultAndFlag x b c).waiting = s.waiting := rfl
@[simp] theorem State.setResultAndFlag_waitReg (x : Nibble) (b c : Byte) : (s.setResultAndFlag x b c).waitReg = s.waitReg := rfl
@[simp] theorem State.setResultAndFlag_redraw (x : Nibble) (b c : Byte) : (s.setResultAndFlag x b c).redraw = s.redraw := rfl
@[simp] theorem State.setResultAndFlag_soundOn (x : Nibble) (b c : Byte) : (s.setResultAndFlag x b c).soundOn = s.soundOn := rfl
@[simp] theorem State.setResultAndFlag_fault (x : Nibble) (b c : Byte) : (s.setResultAndFlag x b c).fault = s.fault := rfl
@[simp] theorem State.setResultAndFlag_faultInfo (x : Nibble) (b c : Byte) : (s.setResultAndFlag x b c).faultInfo = s.faultInfo := rfl
@[simp] theorem State.setResultAndFlag_quirks (x : Nibble) (b c : Byte) : (s.setResultAndFlag x b c).quirks = s.quirks := rfl
@[simp] theorem State.setResultAndFlag_draws (x : Nibble) (b c : Byte) : (s.setResultAndFlag x b c).draws = s.draws := rfl
@[simp] theorem State.setResultAndFlag_key (x : Nibble) (b c : Byte) (j : Nibble) : (s.setResultAndFlag x b c).key j = s.key j := rfl
@[simp] theorem State.setResultAndFlag_pixel (x : Nibble) (b c : Byte) (py : BitVec 5) (px : BitVec 6) : (s.setResultAndFlag x b c).pixel py px = s.pixel py px := rfl
@[simp] theorem State.setResultAndFlag_readByte (x : Nibble) (b c : Byte) (a : Addr) : (s.setResultAndFlag x b c).readByte a = s.readByte a := rfl

/-! ### `State.advance` -/
@[simp] theorem State.advance_mem : s.advance.mem = s.mem := rfl
@[simp] theorem State.advance_v : s.advance.v = s.v := rfl
@[simp] theorem State.advance_i : s.advance.i = s.i := rfl
@[simp] theorem State.advance_pc : s.advance.pc = s.pc + 2 := rfl
@[simp] theorem State.advance_sp : s.advance.sp = s.sp := rfl
@[simp] theorem State.advance_stack : s.advance.stack = s.stack := rfl
@[simp] theorem State.advance_dt : s.advance.dt = s.dt := rfl
@[simp] theorem State.advance_st : s.advance.st = s.st := rfl
@[simp] theorem State.advance_fb : s.advance.fb = s.fb := rfl
@[simp] theorem State.advance_keys : s.advance.keys = s.keys := rfl
@[simp] theorem State.advance_waiting : s.advance.waiting = s.waiting := rfl
@[simp] theorem State.advance_waitReg : s.advance.waitReg = s.waitReg := rfl
@[simp] theorem State.advance_redraw : s.advance.redraw = s.redraw := rfl
@[simp] theorem State.advance_soundOn : s.advance.soundOn = s.soundOn := rfl
@[simp] theorem State.advance_fault : s.advance.fault = s.fault := rfl
@[simp] theorem State.advance_faultInfo : s.advance.faultInfo = s.faultInfo := rfl
@[simp] theorem State.advance_quirks : s.advance.quirks = s.quirks := rfl
@[simp] theorem State.advance_draws : s.advance.draws = s.draws := rfl
@[simp] theorem State.advance_reg (r : Nibble) : s.advance.reg r = s.reg r := rfl
@[simp] theorem State.advance_key (j : Nibble) : s.advance.key j = s.key j := rfl
@[simp] theorem State.advance_pixel (py : BitVec 5) (px : BitVec 6) : s.advance.pixel py px = s.pixel py px := rfl
@[simp] theorem State.advance_readByte (a : Addr) : s.advance.readByte a = s.readByte a := rfl

/-! ### `State.skipIf` -/
@[simp] theorem State.skipIf_mem (c : Bool) : (s.skipIf c).mem = s.mem := rfl
@[simp] theorem State.skipIf_v (c : Bool) : (s.skipIf c).v = s.v := rfl
@[simp] theorem State.skipIf_i (c : Bool) : (s.skipIf c).i = s.i := rfl
@[simp] theorem State.skipIf_pc (c : Bool) : (s.skipIf c).pc = if c then s.pc + 4 else s.pc + 2 := rfl
@[simp] theorem State.skipIf_sp (c : Bool) : (s.skipIf c).sp = s.sp := rfl
@[simp] theorem State.skipIf_stack (c : Bool) : (s.skipIf c).stack = s.stack := rfl
@[simp] theorem State.skipIf_dt (c : Bool) : (s.skipIf c).dt = s.dt := rfl
@[simp] theorem State.skipIf_st (c : Bool) : (s.skipIf c).st = s.st := rfl
@[simp] theorem State.skipIf_fb (c : Bool) : (s.skipIf c).fb = s.fb := rfl
@[simp] theorem State.skipIf_keys (c : Bool) : (s.skipIf c).keys = s.keys := rfl
@[simp] theorem State.skipIf_waiting (c : Bool) : (s.skipIf c).waiting = s.waiting := rfl
@[simp] theorem State.skipIf_waitReg (c : Bool) : (s.skipIf c).waitReg = s.waitReg := rfl
@[simp] theorem State.skipIf_redraw (c : Bool) : (s.skipIf c).redraw = s.redraw := rfl
@[simp] theorem State.skipIf_soundOn (c : Bool) : (s.skipIf c).soundOn = s.soundOn := rfl
@[simp] theorem State.skipIf_fault (c : Bool) : (s.skipIf c).fault = s.fault := rfl
@[simp] theorem State.skipIf_faultInfo (c : Bool) : (s.skipIf c).faultInfo = s.faultInfo := rfl
@[simp] theorem State.skipIf_quirks (c : Bool) : (s.skipIf c).quirks = s.quirks := rfl
@[simp] theorem State.skipIf_draws (c : Bool) : (s.skipIf c).draws = s.draws := rfl
@[simp] theorem State.skipIf_reg (c : Bool) (r : Nibble) : (s.skipIf c).reg r = s.reg r := rfl
@[simp] theorem State.skipIf_key (c : Bool) (j : Nibble) : (s.skipIf c).key j = s.key j := rfl
@[simp] theorem State.skipIf_pixel (c : Bool) (py : BitVec 5) (px : BitVec 6) : (s.skipIf c).pixel py px = s.pixel py px := rfl
@[simp] theorem State.skipIf_readByte (c : Bool) (a : Addr) : (s.skipIf c).readByte a = s.readByte a := rfl

/-! ### `State.jump` -/
@[simp] theorem State.jump_mem (w : Word) : (s.jump w).mem = s.mem := rfl
@[simp] theorem State.jump_v (w : Word) : (s.jump w).v = s.v := rfl
@[simp] theorem State.jump_i (w : Word) : (s.jump w).i = s.i := rfl
@[simp] theorem State.jump_pc (w : Word) : (s.jump w).pc = w := rfl
@[simp] theorem State.jump_sp (w : Word) : (s.jump w).sp = s.sp := rfl
@[simp] theorem State.jump_stack (w : Word) : (s.jump w).stack = s.stack := rfl
@[simp] theorem State.jump_dt (w : Word) : (s.jump w).dt = s.dt := rfl
@[simp] theorem State.jump_st (w : Word) : (s.jump w).st = s.st := rfl
@[simp] theorem State.jump_fb (w : Word) : (s.jump w).fb = s.fb := rfl
@[simp] theorem State.jump_keys (w : Word) : (s.jump w).keys = s.keys := rfl
@[simp] theorem State.jump_waiting (w : Word) : (s.jump w).waiting = s.waiting := rfl
@[simp] theorem State.jump_waitReg (w : Word) : (s.jump w).waitReg = s.waitReg := rfl
@[simp] theorem State.jump_redraw (w : Word) : (s.jump w).redraw = s.redraw := rfl
@[simp] theorem State.jump_soundOn (w : Word) : (s.jump w).soundOn = s.soundOn := rfl
@[simp] theorem State.jump_fault (w : Word) : (s.jump w).fault = s.fault := rfl
@[simp] theorem State.jump_faultInfo (w : Word) : (s.jump w).faultInfo = s.faultInfo := rfl
@[simp] theorem State.jump_quirks (w : Word) : (s.jump w).quirks = s.quirks := rfl
@[simp] theorem State.jump_draws (w : Word) : (s.jump w).draws = s.draws := rfl
@[simp] theorem State.jump_reg (w : Word) (r : Nibble) : (s.jump w).reg r = s.reg r := rfl
@[simp] theorem State.jump_key (w : Word) (j : Nibble) : (s.jump w).key j = s.key j := rfl
@[simp] theorem State.jump_pixel (w : Word) (py : BitVec 5) (px : BitVec 6) : (s.jump w).pixel py px = s.pixel py px := rfl
@[simp] theorem State.jump_readByte (w : Word) (a : Addr) : (s.jump w).readByte a = s.readByte a := rfl

/-! ### `State.setKey` -/
@[simp] theorem State.setKey_mem (k : Nibble) (p : Bool) : (s.setKey k p).mem = s.mem := rfl
@[simp] theorem State.setKey_v (k : Nibble) (p : Bool) : (s.setKey k p).v = s.v := rfl
@[simp] theorem State.setKey_i (k : Nibble) (p : Bool) : (s.setKey k p).i = s.i := rfl
@[simp] theorem State.setKey_pc (k : Nibble) (p : Bool) : (s.setKey k p).pc = s.pc := rfl
@[simp] theorem State.setKey_sp (k : Nibble) (p : Bool) : (s.setKey k p).sp = s.sp := rfl
@[simp] theorem State.setKey_stack (k : Nibble) (p : Bool) : (s.setKey k p).stack = s.stack := rfl
@[simp] theorem State.setKey_dt (k : Nibble) (p : Bool) : (s.setKey k p).dt = s.dt := rfl
@[simp] theorem State.setKey_st (k : Nibble) (p : Bool) : (s.setKey k p).st = s.st := rfl
@[simp] theorem State.setKey_fb (k : Nibble) (p : Bool) : (s.setKey k p).fb = s.fb := rfl
@[simp] theorem State.setKey_keys (k : Nibble) (p : Bool) : (s.setKey k p).keys = s.keys.set k.toNat p k.isLt := rfl
@[simp] theorem State.setKey_waiting (k : Nibble) (p : Bool) : (s.setKey k p).waiting = s.waiting := rfl
@[simp] theorem State.setKey_waitReg (k : Nibble) (p : Bool) : (s.setKey k p).waitReg = s.waitReg := rfl
@[simp] theorem State.setKey_redraw (k : Nibble) (p : Bool) : (s.setKey k p).redraw = s.redraw := rfl
@[simp] theorem State.setKey_soundOn (k : Nibble) (p : Bool) : (s.setKey k p).soundOn = s.soundOn := rfl
@[simp] theorem State.setKey_fault (k : Nibble) (p : Bool) : (s.setKey k p).fault = s.fault := rfl
@[simp] theorem State.setKey_faultInfo (k : Nibble) (p : Bool) : (s.setKey k p).faultInfo = s.faultInfo := rfl
@[simp] theorem State.setKey_quirks (k : Nibble) (p : Bool) : (s.setKey k p).quirks = s.quirks := rfl
@[simp] theorem State.setKey_draws (k : Nibble) (p : Bool) : (s.setKey k p).draws = s.draws := rfl
@[simp] theorem State.setKey_reg (k : Nibble) (p : Bool) (r : Nibble) : (s.setKey k p).reg r = s.reg r := rfl
@[simp] theorem State.setKey_pixel (k : Nibble) (p : Bool) (py : BitVec 5) (px : BitVec 6) : (s.setKey k p).pixel py px = s.pixel py px := rfl
@[simp] theorem State.setKey_readByte (k : Nibble) (p : Bool) (a : Addr) : (s.setKey k p).readByte a = s.readByte a := rfl

/-! ### `State.setFrame` -/
@[simp] theorem State.setFrame_mem (f : Frame) : (s.setFrame f).mem = s.mem := rfl
@[simp] theorem State.setFrame_v (f : Frame) : (s.setFrame f).v = s.v := rfl
@[simp] theorem State.setFrame_i (f : Frame) : (s.setFrame f).i = s.i := rfl
@[simp] theorem State.setFrame_pc (f : Frame) : (s.setFrame f).pc = s.pc := rfl
@[simp] theorem State.setFrame_sp (f : Frame) : (s.setFrame f).sp = s.sp := rfl
@[simp] theorem State.setFrame_stack (f : Frame) : (s.setFrame f).stack = s.stack := rfl
@[simp] theorem State.setFrame_dt (f : Frame) : (s.setFrame f).dt = s.dt := rfl
@[simp] theorem State.setFrame_st (f : Frame) : (s.setFrame f).st = s.st := rfl
@[simp] theorem State.setFrame_fb (f : Frame) : (s.setFrame f).fb = f := rfl
@[simp] theorem State.setFrame_keys (f : Frame) : (s.setFrame f).keys = s.keys := rfl
@[simp] theorem State.setFrame_waiting (f : Frame) : (s.setFrame f).waiting = s.waiting := rfl
@[simp] theorem State.setFrame_waitReg (f : Frame) : (s.setFrame f).waitReg = s.waitReg := rfl
@[simp] theorem State.setFrame_redraw (f : Frame) : (s.setFrame f).redraw = true := rfl
@[simp] theorem State.setFrame_soundOn (f : Frame) : (s.setFrame f).soundOn = s.soundOn := rfl
@[simp] theorem State.setFrame_fault (f : Frame) : (s.setFrame f).fault = s.fault := rfl
@[simp] theorem State.setFrame_faultInfo (f : Frame) : (s.setFrame f).faultInfo = s.faultInfo := rfl
@[simp] theorem State.setFrame_quirks (f : Frame) : (s.setFrame f).quirks = s.quirks := rfl
@[simp] theorem State.setFrame_draws (f : Frame) : (s.setFrame f).draws = s.draws := rfl
@[simp] theorem State.setFrame_reg (f : Frame) (r : Nibble) : (s.setFrame f).reg r = s.reg r := rfl
@[simp] theorem State.setFrame_key (f : Frame) (j : Nibble) : (s.setFrame f).key j = s.key j := rfl
@[simp] theorem State.setFrame_readByte (f : Frame) (a : Addr) : (s.setFrame f).readByte a = s.readByte a := rfl

/-! ### `State.countDraw` -/
@[simp] theorem State.countDraw_mem : s.countDraw.mem = s.mem := rfl
@[simp] theorem State.countDraw_v : s.countDraw.v = s.v := rfl
@[simp] theorem State.countDraw_i : s.countDraw.i = s.i := rfl
@[simp] theorem State.countDraw_pc : s.countDraw.pc = s.pc := rfl
@[simp] theorem State.countDraw_sp : s.countDraw.sp = s.sp := rfl
@[simp] theorem State.countDraw_stack : s.countDraw.stack = s.stack := rfl
@[simp] theorem State.countDraw_dt : s.countDraw.dt = s.dt := rfl
@[simp] theorem State.countDraw_st : s.countDraw.st = s.st := rfl
@[simp] theorem State.countDraw_fb : s.countDraw.fb = s.fb := rfl
@[simp] theorem State.countDraw_keys : s.countDraw.keys = s.keys := rfl
@[simp] theorem State.countDraw_waiting : s.countDraw.waiting = s.waiting := rfl
@[simp] theorem State.countDraw_waitReg : s.countDraw.waitReg = s.waitReg := rfl
@[simp] theorem State.countDraw_redraw : s.countDraw.redraw = s.redraw := rfl
@[simp] theorem State.countDraw_soundOn : s.countDraw.soundOn = s.soundOn := rfl
@[simp] theorem State.countDraw_fault : s.countDraw.fault = s.fault := rfl
@[simp] theorem State.countDraw_faultInfo : s.countDraw.faultInfo = s.faultInfo := rfl
@[simp] theorem State.countDraw_quirks : s.countDraw.quirks = s.quirks := rfl
@[simp] theorem State.countDraw_draws : s.countDraw.draws = s.draws + 1 := rfl
@[simp] theorem State.countDraw_reg (r : Nibble) : s.countDraw.reg r = s.reg r := rfl
@[simp] theorem State.countDraw_key (j : Nibble) : s.countDraw.key j = s.key j := rfl
@[simp] theorem State.countDraw_pixel (py : BitVec 5) (px : BitVec 6) : s.countDraw.pixel py px = s.pixel py px := rfl
@[simp] theorem State.countDraw_readByte (a : Addr) : s.countDraw.readByte a = s.readByte a := rfl

/-! ### `State.startKeyWait` -/
@[simp] theorem State.startKeyWait_mem (x : Nibble) : (s.startKeyWait x).mem = s.mem := rfl
@[simp] theorem State.startKeyWait_v (x : Nibble) : (s.startKeyWait x).v = s.v := rfl
@[simp] theorem State.startKeyWait_i (x : Nibble) : (s.startKeyWait x).i = s.i := rfl
@[simp] theorem State.startKeyWait_pc (x : Nibble) : (s.startKeyWait x).pc = s.pc := rfl
@[simp] theorem State.startKeyWait_sp (x : Nibble) : (s.startKeyWait x).sp = s.sp := rfl
@[simp] theorem State.startKeyWait_stack (x : Nibble) : (s.startKeyWait x).stack = s.stack := rfl
@[simp] theorem State.startKeyWait_dt (x : Nibble) : (s.startKeyWait x).dt = s.dt := rfl
@[simp] theorem State.startKeyWait_st (x : Nibble) : (s.startKeyWait x).st = s.st := rfl
@[simp] theorem State.startKeyWait_fb (x : Nibble) : (s.startKeyWait x).fb = s.fb := rfl
@[simp] theorem State.startKeyWait_keys (x : Nibble) : (s.startKeyWait x).keys = s.keys := rfl
@[simp] theorem State.startKeyWait_waiting (x : Nibble) : (s.startKeyWait x).waiting = true := rfl
@[simp] theorem State.startKeyWait_waitReg (x : Nibble) : (s.startKeyWait x).waitReg = x := rfl
@[simp] theorem State.startKeyWait_redraw (x : Nibble) : (s.startKeyWait x).redraw = s.redraw := rfl
@[simp] theorem State.startKeyWait_soundOn (x : Nibble) : (s.startKeyWait x).soundOn = s.soundOn := rfl
@[simp] theorem State.startKeyWait_fault (x : Nibble) : (s.startKeyWait x).fault = s.fault := rfl
@[simp] theorem State.startKeyWait_faultInfo (x : Nibble) : (s.startKeyWait x).faultInfo = s.faultInfo := rfl
@[simp] theorem State.startKeyWait_quirks (x : Nibble) : (s.startKeyWait x).quirks = s.quirks := rfl
@[simp] theorem State.startKeyWait_draws (x : Nibble) : (s.startKeyWait x).draws = s.draws := rfl
@[simp] theorem State.startKeyWait_reg (x : Nibble) (r : Nibble) : (s.startKeyWait x).reg r = s.reg r := rfl
@[simp] theorem State.startKeyWait_key (x : Nibble) (j : Nibble) : (s.startKeyWait x).key j = s.key j := rfl
@[simp] theorem State.startKeyWait_pixel (x : Nibble) (py : BitVec 5) (px : BitVec 6) : (s.startKeyWait x).pixel py px = s.pixel py px := rfl
@[simp] theorem State.startKeyWait_readByte (x : Nibble) (a : Addr) : (s.startKeyWait x).readByte a = s.readByte a := rfl

/-! ### `State.setDt` -/
@[simp] theorem State.setDt_mem (b : Byte) : (s.setDt b).mem = s.mem := rfl
@[simp] theorem State.setDt_v (b : Byte) : (s.setDt b).v = s.v := rfl
@[simp] theorem State.setDt_i (b : Byte) : (s.setDt b).i = s.i := rfl
@[simp] theorem State.setDt_pc (b : Byte) : (s.setDt b).pc = s.pc := rfl
@[simp] theorem State.setDt_sp (b : Byte) : (s.setDt b).sp = s.sp := rfl
@[simp] theorem State.setDt_stack (b : Byte) : (s.setDt b).stack = s.stack := rfl
@[simp] theorem State.setDt_dt (b : Byte) : (s.setDt b).dt = b := rfl
@[simp] theorem State.setDt_st (b : Byte) : (s.setDt b).st = s.st := rfl
@[simp] theorem State.setDt_fb (b : Byte) : (s.setDt b).fb = s.fb := rfl
@[simp] theorem State.setDt_keys (b : Byte) : (s.setDt b).keys = s.keys := rfl
@[simp] theorem State.setDt_waiting (b : Byte) : (s.setDt b).waiting = s.waiting := rfl
@[simp] theorem State.setDt_waitReg (b : Byte) : (s.setDt b).waitReg = s.waitReg := rfl
@[simp] theorem State.setDt_redraw (b : Byte) : (s.setDt b).redraw = s.redraw := rfl
@[simp] theorem State.setDt_soundOn (b : Byte) : (s.setDt b).soundOn = s.soundOn := rfl
@[simp] theorem State.setDt_fault (b : Byte) : (s.setDt b).fault = s.fault := rfl
@[simp] theorem State.setDt_faultInfo (b : Byte) : (s.setDt b).faultInfo = s.faultInfo := rfl
@[simp] theorem State.setDt_quirks (b : Byte) : (s.setDt b).quirks = s.quirks := rfl
@[simp] theorem State.setDt_draws (b : Byte) : (s.setDt b).draws = s.draws := rfl
@[simp] theorem State.setDt_reg (b : Byte) (r : Nibble) : (s.setDt b).reg r = s.reg r := rfl
@[simp] theorem State.setDt_key (b : Byte) (j : Nibble) : (s.setDt b).key j = s.key j := rfl
@[simp] theorem State.setDt_pixel (b : Byte) (py : BitVec 5) (px : BitVec 6) : (s.setDt b).pixel py px = s.pixel py px := rfl
@[simp] theorem State.setDt_readByte (b : Byte) (a : Addr) : (s.setDt b).readByte a = s.readByte a := rfl

/-! ### `State.setSt` -/
@[simp] theorem State.setSt_mem (b : Byte) : (s.setSt b).mem = s.mem := rfl
@[simp] theorem State.setSt_v (b : Byte) : (s.setSt b).v = s.v := rfl
@[simp] theorem State.setSt_i (b : Byte) : (s.setSt b).i = s.i := rfl
@[simp] theorem State.setSt_pc (b : Byte) : (s.setSt b).pc = s.pc := rfl
@[simp] theorem State.setSt_sp (b : Byte) : (s.setSt b).sp = s.sp := rfl
@[simp] theorem State.setSt_stack (b : Byte) : (s.setSt b).stack = s.stack := rfl
@[simp] theorem State.setSt_dt (b : Byte) : (s.setSt b).dt = s.dt := rfl
@[simp] theorem State.setSt_st (b : Byte) : (s.setSt b).st = b := rfl
@[simp] theorem State.setSt_fb (b : Byte) : (s.setSt b).fb = s.fb := rfl
@[simp] theorem State.setSt_keys (b : Byte) : (s.setSt b).keys = s.keys := rfl
@[simp] theorem State.setSt_waiting (b : Byte) : (s.setSt b).waiting = s.waiting := rfl
@[simp] theorem State.setSt_waitReg (b : Byte) : (s.setSt b).waitReg = s.waitReg := rfl
@[simp] theorem State.setSt_redraw (b : Byte) : (s.setSt b).redraw = s.redraw := rfl
@[simp] theorem State.setSt_soundOn (b : Byte) : (s.setSt b).soundOn = s.soundOn := rfl
@[simp] theorem State.setSt_fault (b : Byte) : (s.setSt b).fault = s.fault := rfl
@[simp] theorem State.setSt_faultInfo (b : Byte) : (s.setSt b).faultInfo = s.faultInfo := rfl
@[simp] theorem State.setSt_quirks (b : Byte) : (s.setSt b).quirks = s.quirks := rfl
@[simp] theorem State.setSt_draws (b : Byte) : (s.setSt b).draws = s.draws := rfl
@[simp] theorem State.setSt_reg (b : Byte) (r : Nibble) : (s.setSt b).reg r = s.reg r := rfl
@[simp] theorem State.setSt_key (b : Byte) (j : Nibble) : (s.setSt b).key j = s.key j := rfl
@[simp] theorem State.setSt_pixel (b : Byte) (py : BitVec 5) (px : BitVec 6) : (s.setSt b).pixel py px = s.pixel py px := rfl
@[simp] theorem State.setSt_readByte (b : Byte) (a : Addr) : (s.setSt b).readByte a = s.readByte a := rfl

/-! ### `State.setIndex` -/
@[simp] theorem State.setIndex_mem (w : Word) : (s.setIndex w).mem = s.mem := rfl
@[simp] theorem State.setIndex_v (w : Word) : (s.setIndex w).v = s.v := rfl
@[simp] theorem State.setIndex_i (w : Word) : (s.setIndex w).i = w := rfl
@[simp] theorem State.setIndex_pc (w : Word) : (s.setIndex w).pc = s.pc := rfl
@[simp] theorem State.setIndex_sp (w : Word) : (s.setIndex w).sp = s.sp := rfl
@[simp] theorem State.setIndex_stack (w : Word) : (s.setIndex w).stack = s.stack := rfl
@[simp] theorem State.setIndex_dt (w : Word) : (s.setIndex w).dt = s.dt := rfl
@[simp] theorem State.setIndex_st (w : Word) : (s.setIndex w).st = s.st := rfl
@[simp] theorem State.setIndex_fb (w : Word) : (s.setIndex w).fb = s.fb := rfl
@[simp] theorem State.setIndex_keys (w : Word) : (s.setIndex w).keys = s.keys := rfl
@[simp] theorem State.setIndex_waiting (w : Word) : (s.setIndex w).waiting = s.waiting := rfl
@[simp] theorem State.setIndex_waitReg (w : Word) : (s.setIndex w).waitReg = s.waitReg := rfl
@[simp] theorem State.setIndex_redraw (w : Word) : (s.setIndex w).redraw = s.redraw := rfl
@[simp] theorem State.setIndex_soundOn (w : Word) : (s.setIndex w).soundOn = s.soundOn := rfl
@[simp] theorem State.setIndex_fault (w : Word) : (s.setIndex w).fault = s.fault := rfl
@[simp] theorem State.setIndex_faultInfo (w : Word) : (s.setIndex w).faultInfo = s.faultInfo := rfl
@[simp] theorem State.setIndex_quirks (w : Word) : (s.setIndex w).quirks = s.quirks := rfl
@[simp] theorem State.setIndex_draws (w : Word) : (s.setIndex w).draws = s.draws := rfl
@[simp] theorem State.setIndex_reg (w : Word) (r : Nibble) : (s.setIndex w).reg r = s.reg r := rfl
@[simp] theorem State.setIndex_key (w : Word) (j : Nibble) : (s.setIndex w).key j = s.key j := rfl
@[simp] theorem State.setIndex_pixel (w : Word) (py : BitVec 5) (px : BitVec 6) : (s.setIndex w).pixel py px = s.pixel py px := rfl
@[simp] theorem State.setIndex_readByte (w : Word) (a : Addr) : (s.setIndex w).readByte a = s.readByte a := rfl

/-! ### `State.setMem` -/
@[simp] theorem State.setMem_mem (m : Memory) : (s.setMem m).mem = m := rfl
@[simp] theorem State.setMem_v (m : Memory) : (s.setMem m).v = s.v := rfl
@[simp] theorem State.setMem_i (m : Memory) : (s.setMem m).i = s.i := rfl
@[simp] theorem State.setMem_pc (m : Memory) : (s.setMem m).pc = s.pc := rfl
@[simp] theorem State.setMem_sp (m : Memory) : (s.setMem m).sp = s.sp := rfl
@[simp] theorem State.setMem_stack (m : Memory) : (s.setMem m).stack = s.stack := rfl
@[simp] theorem State.setMem_dt (m : Memory) : (s.setMem m).dt = s.dt := rfl
@[simp] theorem State.setMem_st (m : Memory) : (s.setMem m).st = s.st := rfl
@[simp] theorem State.setMem_fb (m : Memory) : (s.setMem m).fb = s.fb := rfl
@[simp] theorem State.setMem_keys (m : Memory) : (s.setMem m).keys = s.keys := rfl
@[simp] theorem State.setMem_waiting (m : Memory) : (s.setMem m).waiting = s.waiting := rfl
@[simp] theorem State.setMem_waitReg (m : Memory) : (s.setMem m).waitReg = s.waitReg := rfl
@[simp] theorem State.setMem_redraw (m : Memory) : (s.setMem m).redraw = s.redraw := rfl
@[simp] theorem State.setMem_soundOn (m : Memory) : (s.setMem m).soundOn = s.soundOn := rfl
@[simp] theorem State.setMem_fault (m : Memory) : (s.setMem m).fault = s.fault := rfl
@[simp] theorem State.setMem_faultInfo (m : Memory) : (s.setMem m).faultInfo = s.faultInfo := rfl
@[simp] theorem State.setMem_quirks (m : Memory) : (s.setMem m).quirks = s.quirks := rfl
@[simp] theorem State.setMem_draws (m : Memory) : (s.setMem m).draws = s.draws := rfl
@[simp] theorem State.setMem_reg (m : Memory) (r : Nibble) : (s.setMem m).reg r = s.reg r := rfl
@[simp] theorem State.setMem_key (m : Memory) (j : Nibble) : (s.setMem m).key j = s.key j := rfl
@[simp] theorem State.setMem_pixel (m : Memory) (py : BitVec 5) (px : BitVec 6) : (s.setMem m).pixel py px = s.pixel py px := rfl

/-! ### `State.deliverKey` -/
@[simp] theorem State.deliverKey_mem (k : Nibble) : (s.deliverKey k).mem = s.mem := rfl
@[simp] theorem State.deliverKey_i (k : Nibble) : (s.deliverKey k).i = s.i := rfl
@[simp] theorem State.deliverKey_pc (k : Nibble) : (s.deliverKey k).pc = s.pc := rfl
@[simp] theorem State.deliverKey_sp (k : Nibble) : (s.deliverKey k).sp = s.sp := rfl
@[simp] theorem State.deliverKey_stack (k : Nibble) : (s.deliverKey k).stack = s.stack := rfl
@[simp] theorem State.deliverKey_dt (k : Nibble) : (s.deliverKey k).dt = s.dt := rfl
@[simp] theorem State.deliverKey_st (k : Nibble) : (s.deliverKey k).st = s.st := rfl
@[simp] theorem State.deliverKey_fb (k : Nibble) : (s.deliverKey k).fb = s.fb := rfl
@[simp] theorem State.deliverKey_keys (k : Nibble) : (s.deliverKey k).keys = s.keys := rfl
@[simp] theorem State.deliverKey_waiting (k : Nibble) : (s.deliverKey k).waiting = false := rfl
@[simp] theorem State.deliverKey_waitReg (k : Nibble) : (s.deliverKey k).waitReg = s.waitReg := rfl
@[simp] theorem State.deliverKey_redraw (k : Nibble) : (s.deliverKey k).redraw = s.redraw := rfl
@[simp] theorem State.deliverKey_soundOn (k : Nibble) : (s.deliverKey k).soundOn = s.soundOn := rfl
@[simp] theorem State.deliverKey_fault (k : Nibble) : (s.deliverKey k).fault = s.fault := rfl
@[simp] theorem State.deliverKey_faultInfo (k : Nibble) : (s.deliverKey k).faultInfo = s.faultInfo := rfl
@[simp] theorem State.deliverKey_quirks (k : Nibble) : (s.deliverKey k).quirks = s.quirks := rfl
@[simp] theorem State.deliverKey_draws (k : Nibble) : (s.deliverKey k).draws = s.draws := rfl
@[simp] theorem State.deliverKey_key (k : Nibble) (j : Nibble) : (s.deliverKey k).key j = s.key j := rfl
@[simp] theorem State.deliverKey_pixel (k : Nibble) (py : BitVec 5) (px : BitVec 6) : (s.deliverKey k).pixel py px = s.pixel py px := rfl
@[simp] theorem State.deliverKey_readByte (k : Nibble) (a : Addr) : (s.deliverKey k).readByte a = s.readByte a := rfl

/-! ### What a written register, key or pixel reads as -/

/-- A register reads as what was last written to it (R10). -/
@[simp] theorem State.reg_setReg (x r : Nibble) (b : Byte) : (s.setReg x b).reg r = if r = x then b else s.reg r := by
  simp only [State.reg, State.setReg, Vector.getElem_set, BitVec.toNat_inj, eq_comm]

/-- The flag is written last: it is what VF holds, whatever the destination (R11, R103). -/
@[simp] theorem State.reg_setResultAndFlag (x r : Nibble) (b c : Byte) :
    (s.setResultAndFlag x b c).reg r = if r = 0xF then c else if r = x then b else s.reg r := by
  simp [State.setResultAndFlag]

@[simp] theorem State.reg_deliverKey (k r : Nibble) :
    (s.deliverKey k).reg r = if r = s.waitReg then k.setWidth 8 else s.reg r :=
  State.reg_setReg s s.waitReg r (k.setWidth 8)

@[simp] theorem State.key_setKey (k j : Nibble) (p : Bool) : (s.setKey k p).key j = if j = k then p else s.key j := by
  simp only [State.key, State.setKey, Vector.getElem_set, BitVec.toNat_inj, eq_comm]

@[simp] theorem State.pixel_setFrame (f : Frame) (y : BitVec 5) (x : BitVec 6) : (s.setFrame f).pixel y x = f.get y x := rfl

@[simp] theorem State.readByte_setMem (m : Memory) (a : Addr) : (s.setMem m).readByte a = m.read a := rfl

/-- Two register files are equal when every register reads alike. -/
theorem State.v_ext (s t : State) (h : ∀ r, t.reg r = s.reg r) : t.v = s.v := by
  apply Vector.ext
  intro k hk
  have hr := h (BitVec.ofNat 4 k)
  have hm : k % 16 = k := Nat.mod_eq_of_lt hk
  simpa [State.reg, hm] using hr

end Sys2Proof.Machine
end

