-- ==== Sys2Proof/Laws/Ops.lean ====
section
/-!
SUPPORT. One lemma per shared operation that says everything it can do, and the closed forms of the bulk transfers. A proof cites
these and does not unfold the operation.
-/
namespace Sys2Proof.Machine

/-- A raise answers the state with the latch set, and nothing else (R151). -/
theorem raise_eq_next {c : Cause} {info : Word} {s t : State} :
    raise c info s = .next t ↔ t = { s with fault := c, faultInfo := info } := by
  constructor
  · intro h; injection h with h; exact h.symm
  · rintro rfl; rfl

/-- The bounds check raises, or lets the whole effect through (R46). -/
theorem checkBounds_eq_next {s e t : State} {last : Nat} (h : checkBounds s last e = .next t) :
    (last > 0xFFF ∧ t = { s with fault := .memoryBounds, faultInfo := s.i }) ∨ (last ≤ 0xFFF ∧ t = e) := by
  unfold checkBounds at h
  split at h
  · exact .inl ⟨‹_›, raise_eq_next.1 h⟩
  · injection h with h
    exact .inr ⟨by omega, h.symm⟩

theorem checkBounds_inside {s e : State} {last : Nat} (h : last ≤ 0xFFF) : checkBounds s last e = .next e := by
  unfold checkBounds; rw [if_neg (by omega)]

theorem checkBounds_outside {s e : State} {last : Nat} (h : last > 0xFFF) :
    checkBounds s last e = .next { s with fault := .memoryBounds, faultInfo := s.i } := by
  unfold checkBounds; rw [if_pos h]; rfl

/-- CALL's stack operation raises with 16 entries in use, or pushes (R84). -/
theorem callTo_eq_next {s t : State} {target : Word} (h : callTo s target = .next t) :
    (s.sp.val = 16 ∧ t = { s with fault := .stackOverflow, faultInfo := s.pc }) ∨
    (∃ hs : s.sp.val < 16,
      t = { s with stack := s.stack.set s.sp.val s.pc hs, sp := ⟨s.sp.val + 1, by omega⟩, pc := target }) := by
  unfold callTo at h
  split at h
  · rename_i hs
    injection h with h
    exact .inr ⟨hs, h.symm⟩
  · have := s.sp.isLt
    exact .inl ⟨by omega, raise_eq_next.1 h⟩

/-- RET's stack operation raises on an empty stack, or pops (R86). -/
theorem returnFromCall_eq_next {s t : State} (h : returnFromCall s = .next t) :
    (s.sp.val = 0 ∧ t = { s with fault := .stackUnderflow, faultInfo := s.pc }) ∨
    (∃ _ : s.sp.val ≠ 0,
      t = { s with sp := ⟨s.sp.val - 1, by omega⟩, pc := s.stack[s.sp.val - 1]'(by omega) + 2 }) := by
  unfold returnFromCall at h
  split at h
  · exact .inl ⟨‹_›, raise_eq_next.1 h⟩
  · rename_i hs
    injection h with h
    exact .inr ⟨hs, h.symm⟩

/-- A key test raises on an index above 15, or skips by the key's level (R120 to R122). -/
theorem keyTest_eq_next {s t : State} {k : Byte} {p : Bool} (h : keyTest s k p = .next t) :
    (k.toNat > 15 ∧ t = { s with fault := .keyIndex, faultInfo := wordOfByte k }) ∨
    (k.toNat ≤ 15 ∧ t = s.skipIf (s.key (k.setWidth 4) == p)) := by
  unfold keyTest at h
  split at h
  · exact .inl ⟨‹_›, raise_eq_next.1 h⟩
  · injection h with h
    exact .inr ⟨by omega, h.symm⟩

/-- DRW raises, or draws; with no rows it never raises (R46, R141). -/
theorem execDrw_eq_next {s t : State} {x y n : Nibble} (h : execDrw x y n s = .next t) :
    (n ≠ 0 ∧ s.i.toNat + (n.toNat - 1) > 0xFFF ∧ t = { s with fault := .memoryBounds, faultInfo := s.i }) ∨
    ((n = 0 ∨ s.i.toNat + (n.toNat - 1) ≤ 0xFFF) ∧ t = s.drawn x y n) := by
  unfold execDrw at h
  split at h
  · injection h with h
    exact .inr ⟨.inl ‹_›, h.symm⟩
  · rcases checkBounds_eq_next h with ⟨h1, h2⟩ | ⟨h1, h2⟩
    · exact .inl ⟨‹_›, h1, h2⟩
    · exact .inr ⟨.inr h1, h2⟩

/-! ### Operands and flags as numbers -/

theorem addrOperand_toNat (nnn : Addr) : (addrOperand nnn).toNat = nnn.toNat := by
  have := nnn.isLt
  simp [addrOperand]; omega

theorem wordOfByte_toNat (b : Byte) : (wordOfByte b).toNat = b.toNat := by
  have := b.isLt
  simp [wordOfByte]; omega

theorem glyphAddr_toNat : ∀ b : Byte, (glyphAddr b).toNat = b.toNat % 16 * 5 := by decide

theorem hundreds_toNat (b : Byte) : (hundreds b).toNat = b.toNat / 100 := by
  have := b.isLt
  simp [hundreds]; omega

theorem tens_toNat (b : Byte) : (tens b).toNat = b.toNat / 10 % 10 := by
  have := b.isLt
  simp [tens]; omega

theorem units_toNat (b : Byte) : (units b).toNat = b.toNat % 10 := by
  have := b.isLt
  simp [units]; omega

theorem indexAfterBulk_toNat (s : State) (x : Nibble) : (s.indexAfterBulk x).toNat =
    (if s.quirks.incrementIndexQuirk = true then (s.i.toNat + x.toNat + 1) % 65536 else s.i.toNat) := by
  have := x.isLt
  rw [State.indexAfterBulk]
  split
  · simp [BitVec.toNat_add]; omega
  · rfl

theorem flagOf_toNat (b : Bool) : (flagOf b).toNat = if b = true then 1 else 0 := by cases b <;> rfl

theorem flagOf_eq_one {b : Bool} : flagOf b = 1 ↔ b = true := by cases b <;> decide

theorem lowBitFlag_toNat : ∀ b : Byte, (lowBitFlag b).toNat = b.toNat % 2 := by decide

theorem highBitFlag_toNat : ∀ b : Byte, (highBitFlag b).toNat = b.toNat / 128 := by decide

theorem countDown_toNat : ∀ t : Byte, (countDown t).toNat = t.toNat - 1 := by decide

/-! ### Bulk transfers -/

/-- A bulk load changes registers only. -/
theorem loadRegs_frame (s : State) (k : Nat) : s.loadRegs k = { s with v := (s.loadRegs k).v } := by
  induction k with
  | zero => rfl
  | succ k ih => rw [State.loadRegs, ih]; rfl

/-- The addresses of one bulk transfer inside the memory are distinct (R46). -/
theorem dataAddr_toNat {s : State} {k : Nat} (h : s.i.toNat + k ≤ 0xFFF) : (s.dataAddr k).toNat = s.i.toNat + k := by
  simp only [State.dataAddr, State.dataSum, BitVec.toNat_ofNat]
  omega

/-- Two offsets of one transfer inside the memory are two addresses (R46). -/
theorem dataAddr_ne {s : State} {j k : Nat} (hj : s.i.toNat + j ≤ 0xFFF) (hk : s.i.toNat + k ≤ 0xFFF) (h : j ≠ k) :
    s.dataAddr j ≠ s.dataAddr k := by
  intro e
  have := congrArg BitVec.toNat e
  rw [dataAddr_toNat hj, dataAddr_toNat hk] at this
  omega

/-- What the bulk store leaves at the address of register `j` (R134). -/
theorem storeRegs_read_inside {s : State} {k j : Nat} (hk : k ≤ 16) (hj : j < k) (hfit : s.i.toNat + (k - 1) ≤ 0xFFF) :
    (s.storeRegs k).read (s.dataAddr j) = s.reg (BitVec.ofNat 4 j) := by
  induction k with
  | zero => omega
  | succ k ih =>
    rw [State.storeRegs, Memory.read_write]
    by_cases hjk : j = k
    · subst hjk; rw [if_pos rfl]
    · have hne : s.dataAddr j ≠ s.dataAddr k := by
        intro e
        have := congrArg BitVec.toNat e
        rw [dataAddr_toNat (by omega), dataAddr_toNat (by omega)] at this
        omega
      rw [if_neg hne, ih (by omega) (by omega) (by omega)]

/-- Every other byte is as before (R134). -/
theorem storeRegs_read_outside {s : State} {k : Nat} {a : Addr} (ha : ∀ j, j < k → a ≠ s.dataAddr j) :
    (s.storeRegs k).read a = s.readByte a := by
  induction k with
  | zero => rfl
  | succ k ih =>
    rw [State.storeRegs, Memory.read_write, if_neg (ha k (Nat.lt_succ_self k)), ih fun j hj => ha j (by omega)]

/-- The registers after a bulk load (R135). -/
theorem loadRegs_reg (s : State) {k : Nat} (hk : k ≤ 16) (r : Nibble) :
    (s.loadRegs k).reg r = if r.toNat < k then s.dataByte r.toNat else s.reg r := by
  induction k with
  | zero => simp [State.loadRegs]
  | succ k ih =>
    have hr : (r = BitVec.ofNat 4 k) = (r.toNat = k) := by
      rw [← BitVec.toNat_inj, BitVec.toNat_ofNat, Nat.mod_eq_of_lt (by omega)]
    rw [State.loadRegs, State.reg_setReg, ih (by omega)]
    simp only [hr]
    by_cases h : r.toNat = k
    · rw [if_pos h, if_pos (by omega), h]
    · rw [if_neg h]
      by_cases h2 : r.toNat < k
      · rw [if_pos h2, if_pos (by omega)]
      · rw [if_neg h2, if_neg (by omega)]

/-- The three digits of LD B (R133): what is stored, and that nothing else is. -/
theorem storeDigits_read (s : State) (b : Byte) (a : Addr) :
    (s.storeDigits b).read a =
      if a = s.dataAddr 2 then units b
      else if a = s.dataAddr 1 then tens b
      else if a = s.dataAddr 0 then hundreds b
      else s.readByte a := by
  simp only [State.storeDigits, Memory.read_write]
  rfl

theorem storeDigits_wf {s : State} (h : s.mem.wf) (b : Byte) : (s.storeDigits b).wf :=
  Memory.wf_write (Memory.wf_write (Memory.wf_write h _ _) _ _) _ _

end Sys2Proof.Machine
end

