-- ==== Sys2Proof/Laws/PerInstr.lean ====
section
/-!
SUPPORT. Statements for all instructions as syntax, one lemma per constructor: every instruction of the type is well formed (spec
30_encoding.md R63: no encoding restricts an operand) and encodes to two bytes (R60).
-/
namespace Sys2Proof.Laws

/-- The operands fit their fields, and the encoding is one instruction long. -/
def Encodable.Statement (i : Instr) : Prop := i.wf = true ∧ (encode i).length = 2

theorem reg_wf (x : Nibble) : (Operand.reg x.toNat).wf = true := decide_eq_true x.isLt
theorem imm_wf (kk : Byte) : (Operand.imm kk.toNat).wf = true := decide_eq_true kk.isLt
theorem addr_wf (nnn : Addr) : (Operand.addr nnn.toNat).wf = true := decide_eq_true nnn.isLt
theorem rows_wf (n : Nibble) : (Operand.rows n.toNat).wf = true := decide_eq_true n.isLt

theorem Encodable.cls : Encodable.Statement .cls := by
  simp [Encodable.Statement, Instr.wf, Instr.operands, encode]
theorem Encodable.ret : Encodable.Statement .ret := by
  simp [Encodable.Statement, Instr.wf, Instr.operands, encode]
theorem Encodable.jp (nnn : Addr) : Encodable.Statement (.jp nnn) := by
  simp [Encodable.Statement, Instr.wf, Instr.operands, encode, addr_wf nnn]
theorem Encodable.call (nnn : Addr) : Encodable.Statement (.call nnn) := by
  simp [Encodable.Statement, Instr.wf, Instr.operands, encode, addr_wf nnn]
theorem Encodable.seImm (x : Nibble) (kk : Byte) : Encodable.Statement (.seImm x kk) := by
  simp [Encodable.Statement, Instr.wf, Instr.operands, encode, reg_wf x, imm_wf kk]
theorem Encodable.sneImm (x : Nibble) (kk : Byte) : Encodable.Statement (.sneImm x kk) := by
  simp [Encodable.Statement, Instr.wf, Instr.operands, encode, reg_wf x, imm_wf kk]
theorem Encodable.seReg (x : Nibble) (y : Nibble) : Encodable.Statement (.seReg x y) := by
  simp [Encodable.Statement, Instr.wf, Instr.operands, encode, reg_wf x, reg_wf y]
theorem Encodable.ldImm (x : Nibble) (kk : Byte) : Encodable.Statement (.ldImm x kk) := by
  simp [Encodable.Statement, Instr.wf, Instr.operands, encode, reg_wf x, imm_wf kk]
theorem Encodable.addImm (x : Nibble) (kk : Byte) : Encodable.Statement (.addImm x kk) := by
  simp [Encodable.Statement, Instr.wf, Instr.operands, encode, reg_wf x, imm_wf kk]
theorem Encodable.ldReg (x : Nibble) (y : Nibble) : Encodable.Statement (.ldReg x y) := by
  simp [Encodable.Statement, Instr.wf, Instr.operands, encode, reg_wf x, reg_wf y]
theorem Encodable.or (x : Nibble) (y : Nibble) : Encodable.Statement (.or x y) := by
  simp [Encodable.Statement, Instr.wf, Instr.operands, encode, reg_wf x, reg_wf y]
theorem Encodable.and (x : Nibble) (y : Nibble) : Encodable.Statement (.and x y) := by
  simp [Encodable.Statement, Instr.wf, Instr.operands, encode, reg_wf x, reg_wf y]
theorem Encodable.xor (x : Nibble) (y : Nibble) : Encodable.Statement (.xor x y) := by
  simp [Encodable.Statement, Instr.wf, Instr.operands, encode, reg_wf x, reg_wf y]
theorem Encodable.addReg (x : Nibble) (y : Nibble) : Encodable.Statement (.addReg x y) := by
  simp [Encodable.Statement, Instr.wf, Instr.operands, encode, reg_wf x, reg_wf y]
theorem Encodable.sub (x : Nibble) (y : Nibble) : Encodable.Statement (.sub x y) := by
  simp [Encodable.Statement, Instr.wf, Instr.operands, encode, reg_wf x, reg_wf y]
theorem Encodable.shr (x : Nibble) (y : Nibble) : Encodable.Statement (.shr x y) := by
  simp [Encodable.Statement, Instr.wf, Instr.operands, encode, reg_wf x, reg_wf y]
theorem Encodable.subn (x : Nibble) (y : Nibble) : Encodable.Statement (.subn x y) := by
  simp [Encodable.Statement, Instr.wf, Instr.operands, encode, reg_wf x, reg_wf y]
theorem Encodable.shl (x : Nibble) (y : Nibble) : Encodable.Statement (.shl x y) := by
  simp [Encodable.Statement, Instr.wf, Instr.operands, encode, reg_wf x, reg_wf y]
theorem Encodable.sneReg (x : Nibble) (y : Nibble) : Encodable.Statement (.sneReg x y) := by
  simp [Encodable.Statement, Instr.wf, Instr.operands, encode, reg_wf x, reg_wf y]
theorem Encodable.ldI (nnn : Addr) : Encodable.Statement (.ldI nnn) := by
  simp [Encodable.Statement, Instr.wf, Instr.operands, encode, addr_wf nnn]
theorem Encodable.jpV0 (nnn : Addr) : Encodable.Statement (.jpV0 nnn) := by
  simp [Encodable.Statement, Instr.wf, Instr.operands, encode, addr_wf nnn]
theorem Encodable.rnd (x : Nibble) (kk : Byte) : Encodable.Statement (.rnd x kk) := by
  simp [Encodable.Statement, Instr.wf, Instr.operands, encode, reg_wf x, imm_wf kk]
theorem Encodable.drw (x : Nibble) (y : Nibble) (n : Nibble) : Encodable.Statement (.drw x y n) := by
  simp [Encodable.Statement, Instr.wf, Instr.operands, encode, reg_wf x, reg_wf y, rows_wf n]
theorem Encodable.skp (x : Nibble) : Encodable.Statement (.skp x) := by
  simp [Encodable.Statement, Instr.wf, Instr.operands, encode, reg_wf x]
theorem Encodable.sknp (x : Nibble) : Encodable.Statement (.sknp x) := by
  simp [Encodable.Statement, Instr.wf, Instr.operands, encode, reg_wf x]
theorem Encodable.ldVxDt (x : Nibble) : Encodable.Statement (.ldVxDt x) := by
  simp [Encodable.Statement, Instr.wf, Instr.operands, encode, reg_wf x]
theorem Encodable.ldVxK (x : Nibble) : Encodable.Statement (.ldVxK x) := by
  simp [Encodable.Statement, Instr.wf, Instr.operands, encode, reg_wf x]
theorem Encodable.ldDtVx (x : Nibble) : Encodable.Statement (.ldDtVx x) := by
  simp [Encodable.Statement, Instr.wf, Instr.operands, encode, reg_wf x]
theorem Encodable.ldStVx (x : Nibble) : Encodable.Statement (.ldStVx x) := by
  simp [Encodable.Statement, Instr.wf, Instr.operands, encode, reg_wf x]
theorem Encodable.addI (x : Nibble) : Encodable.Statement (.addI x) := by
  simp [Encodable.Statement, Instr.wf, Instr.operands, encode, reg_wf x]
theorem Encodable.ldF (x : Nibble) : Encodable.Statement (.ldF x) := by
  simp [Encodable.Statement, Instr.wf, Instr.operands, encode, reg_wf x]
theorem Encodable.ldB (x : Nibble) : Encodable.Statement (.ldB x) := by
  simp [Encodable.Statement, Instr.wf, Instr.operands, encode, reg_wf x]
theorem Encodable.dump (x : Nibble) : Encodable.Statement (.dump x) := by
  simp [Encodable.Statement, Instr.wf, Instr.operands, encode, reg_wf x]
theorem Encodable.load (x : Nibble) : Encodable.Statement (.load x) := by
  simp [Encodable.Statement, Instr.wf, Instr.operands, encode, reg_wf x]

end Sys2Proof.Laws
end

