-- ==== Sys2Proof/Laws/Step.lean ====
section
/-!
SUPPORT. What a Step and an event can do, said once (spec 40_execution_cycle_and_flow.md R80): a proof about every Step splits into these
cases and cites the lemmas of Laws/Ops.lean for the instruction.
-/
namespace Sys2Proof.Machine

theorem halted_iff {s : State} : s.halted = true ↔ 4094 ≤ s.pc.toNat := by
  rw [State.halted, decide_eq_true_eq]
  rfl

theorem blocked_iff {s : State} :
    s.blocked = true ↔ s.fault ≠ .noFault ∨ s.waiting = true ∨ 4094 ≤ s.pc.toNat := by
  simp [State.blocked, halted_iff, or_assoc]

theorem not_blocked_iff {s : State} :
    s.blocked = false ↔ s.fault = .noFault ∧ s.waiting = false ∧ s.pc.toNat < 4094 := by
  rw [← Bool.not_eq_true, blocked_iff]
  push Not
  simp

theorem step_of_blocked {s : State} (h : s.blocked = true) : step s = .next s := by
  rw [step, if_pos h]

theorem step_of_decoded {s : State} {i : Instr} (h : s.blocked = false) (hd : decodeWord s.fetchWord = some i) :
    step s = exec i s := by
  simp [step, h, hd]

theorem step_of_unrecognized {s : State} (h : s.blocked = false) (hd : decodeWord s.fetchWord = none) :
    step s = raise .illegalOpcode s.fetchWord s := by
  simp [step, h, hd, raiseIllegal]

/-- The three things a Step can do (R80). -/
theorem step_cases {s t : State} (h : step s = .next t) :
    (s.blocked = true ∧ t = s) ∨
    (s.blocked = false ∧ ∃ i, decodeWord s.fetchWord = some i ∧ exec i s = .next t) ∨
    (s.blocked = false ∧ decodeWord s.fetchWord = none ∧
      t = { s with fault := .illegalOpcode, faultInfo := s.fetchWord }) := by
  rcases Bool.eq_false_or_eq_true s.blocked with hb | hb
  · rw [step_of_blocked hb] at h
    injection h with h
    exact .inl ⟨hb, h.symm⟩
  · rcases hd : decodeWord s.fetchWord with _ | i
    · rw [step_of_unrecognized hb hd] at h
      exact .inr (.inr ⟨hb, rfl, raise_eq_next.1 h⟩)
    · rw [step_of_decoded hb hd] at h
      exact .inr (.inl ⟨hb, i, rfl, h⟩)

/-- The draw's own account of its sprite bits is the claims' (R141 to R143). -/
theorem spriteOn_iff (s : State) (x y n : Nibble) (py : BitVec 5) (px : BitVec 6) :
    SpriteOn (s.reg x) (s.reg y) s.dataByte n.toNat py px ↔ s.SpriteBit x y n py px := by
  constructor
  · rintro ⟨r, hr, hy, c, hc, hx, hb⟩
    exact ⟨r, c, hr, hc, by simp [hy], by simp [hx], hb⟩
  · rintro ⟨r, c, hr, hc, hy, hx, hb⟩
    exact ⟨r, hr, BitVec.eq_of_toNat_eq (by simp [hy]), c, hc, BitVec.eq_of_toNat_eq (by simp [hx]), hb⟩

/-- A run of one more event. -/
theorem runEvents_cons {font : Font} {e : Event} {es : List Event} {s t : State} (h : applyEvent font e s = .next t) :
    runEvents font (e :: es) s = runEvents font es t := by
  rw [runEvents, h]

end Sys2Proof.Machine
end

