-- ==== Sys2Proof/Tests/Slice0.lean ====
section
/-!
SUPPORT. The model's own tests: the checks of WellFormed.lean refuse ill-formed terms; a word written out bit by bit from spec
30_encoding.md R66 decodes to each instruction; one Step of each instruction against spec 95_test_vectors.md (the vector is named
in each comment); and for every obligation with hypotheses a state and operands that meet them.
-/
namespace Sys2Proof.Tests
open Sys2Proof Sys2Proof.Machine

/-! ### Helpers -/

/-- The reset state with registers set. -/
def regs (l : List (Nibble × Byte)) : State := l.foldl (fun s p => s.setReg p.1 p.2) State.reset

/-- With `I` set. -/
def withI (i : Word) (s : State) : State := { s with i := i }

/-- With `pc` set. -/
def withPc (pc : Word) (s : State) : State := { s with pc := pc }

/-- With bytes of memory set. -/
def withMem (a : Nat) (l : List Byte) (s : State) : State := { s with mem := s.mem.writeBytes a l }

/-- With the quirk flags set (`qT` and `qF` of 95_test_vectors.md). -/
def withQuirks (b : Bool) (s : State) : State := { s with quirks := ⟨b, b⟩ }

/-- With stack entries in use, each 0x204. -/
def withStack (n : Fin 17) (s : State) : State := { s with sp := n, stack := Vector.replicate 16 0x204 }

/-- With one pixel on. -/
def withPixel (y : BitVec 5) (x : BitVec 6) (s : State) : State := { s with fb := s.fb.put y x true }

/-- Waiting for a key, to be delivered to a register. -/
def waitingFor (r : Nibble) (s : State) : State := { s with waiting := true, waitReg := r }

/-- The next state of an outcome. -/
def nextOf : Result → Option State
  | .next t => some t
  | .fault _ => none
  | .refused _ => none

/-- The state after one Step that fetches a word at `pc`. -/
def after (w : Nat) (s : State) : Option State := nextOf (step (s.withFetchWord 16 w))

/-- The state after one instruction. -/
def ran (i : Instr) (s : State) : Option State := nextOf (exec i s)

/-! ### Well-formedness: each check refuses an ill-formed term -/

theorem test_wf_register_16_refused : (Operand.reg 16).wf = false := by decide
theorem test_wf_register_15_accepted : (Operand.reg 15).wf = true := by decide
theorem test_wf_immediate_256_refused : (Operand.imm 256).wf = false := by decide
theorem test_wf_immediate_255_accepted : (Operand.imm 255).wf = true := by decide
theorem test_wf_address_4096_refused : (Operand.addr 4096).wf = false := by decide
theorem test_wf_address_4095_accepted : (Operand.addr 4095).wf = true := by decide
theorem test_wf_rows_16_refused : (Operand.rows 16).wf = false := by decide
theorem test_wf_rows_15_accepted : (Operand.rows 15).wf = true := by decide
theorem test_wf_rom_3585_refused : romWf (List.replicate 3585 0) = false := by
  rw [← Bool.not_eq_true, romWf_iff, List.length_replicate]; decide
theorem test_wf_rom_3584_accepted : romWf (List.replicate 3584 0) = true := by
  rw [romWf_iff, List.length_replicate]
theorem test_wf_draw_accepted : (Instr.drw 0xF 0xF 0xF).wf = true := by decide

/-! ### Decoding: one word of every row of R66, written out bit by bit -/

theorem test_decode_cls : decodeWord 0b0000000011100000 = some .cls := by decide
theorem test_decode_ret : decodeWord 0b0000000011101110 = some .ret := by decide
theorem test_decode_jp : decodeWord 0b0001001000110100 = some (.jp 0b001000110100) := by decide
theorem test_decode_call : decodeWord 0b0010110000000011 = some (.call 0b110000000011) := by decide
theorem test_decode_seImm : decodeWord 0b0011101001000010 = some (.seImm 0b1010 0b01000010) := by decide
theorem test_decode_sneImm : decodeWord 0b0100101001000010 = some (.sneImm 0b1010 0b01000010) := by decide
theorem test_decode_seReg : decodeWord 0b0101101010110000 = some (.seReg 0b1010 0b1011) := by decide
theorem test_decode_ldImm : decodeWord 0b0110111110101011 = some (.ldImm 0b1111 0b10101011) := by decide
theorem test_decode_addImm : decodeWord 0b0111000100000001 = some (.addImm 0b0001 0b00000001) := by decide
theorem test_decode_ldReg : decodeWord 0b1000000100100000 = some (.ldReg 0b0001 0b0010) := by decide
theorem test_decode_or : decodeWord 0b1000000100100001 = some (.or 0b0001 0b0010) := by decide
theorem test_decode_and : decodeWord 0b1000000100100010 = some (.and 0b0001 0b0010) := by decide
theorem test_decode_xor : decodeWord 0b1000000100100011 = some (.xor 0b0001 0b0010) := by decide
theorem test_decode_addReg : decodeWord 0b1000111100010100 = some (.addReg 0b1111 0b0001) := by decide
theorem test_decode_sub : decodeWord 0b1000000011110101 = some (.sub 0b0000 0b1111) := by decide
theorem test_decode_shr : decodeWord 0b1000000000010110 = some (.shr 0b0000 0b0001) := by decide
theorem test_decode_subn : decodeWord 0b1000101010110111 = some (.subn 0b1010 0b1011) := by decide
theorem test_decode_shl : decodeWord 0b1000000000011110 = some (.shl 0b0000 0b0001) := by decide
theorem test_decode_sneReg : decodeWord 0b1001101010110000 = some (.sneReg 0b1010 0b1011) := by decide
theorem test_decode_ldI : decodeWord 0b1010001000101010 = some (.ldI 0b001000101010) := by decide
theorem test_decode_jpV0 : decodeWord 0b1011001100000000 = some (.jpV0 0b001100000000) := by decide
theorem test_decode_rnd : decodeWord 0b1100001100001111 = some (.rnd 0b0011 0b00001111) := by decide
theorem test_decode_drw : decodeWord 0b1101000000010101 = some (.drw 0b0000 0b0001 0b0101) := by decide
theorem test_decode_skp : decodeWord 0b1110001010011110 = some (.skp 0b0010) := by decide
theorem test_decode_sknp : decodeWord 0b1110001010100001 = some (.sknp 0b0010) := by decide
theorem test_decode_ldVxDt : decodeWord 0b1111010000000111 = some (.ldVxDt 0b0100) := by decide
theorem test_decode_ldVxK : decodeWord 0b1111001100001010 = some (.ldVxK 0b0011) := by decide
theorem test_decode_ldDtVx : decodeWord 0b1111000100010101 = some (.ldDtVx 0b0001) := by decide
theorem test_decode_ldStVx : decodeWord 0b1111000100011000 = some (.ldStVx 0b0001) := by decide
theorem test_decode_addI : decodeWord 0b1111001000011110 = some (.addI 0b0010) := by decide
theorem test_decode_ldF : decodeWord 0b1111000000101001 = some (.ldF 0b0000) := by decide
theorem test_decode_ldB : decodeWord 0b1111000000110011 = some (.ldB 0b0000) := by decide
theorem test_decode_dump : decodeWord 0b1111001001010101 = some (.dump 0b0010) := by decide
theorem test_decode_load : decodeWord 0b1111010001100101 = some (.load 0b0100) := by decide

/-- The unrecognized words of vector F23 (R67). -/
theorem test_decode_unrecognized :
    [0x00E1, 0x0123, 0x5121, 0x8128, 0x812F, 0x9121, 0xE000, 0xE19F, 0xF000, 0xF154, 0xF1FF].all
      (fun w => decodeWord w == none) = true := by decide

/-- Bytes are taken high byte first, and one byte is no instruction (R60). -/
theorem test_decode_bytes : decode [0xA2, 0x2A, 0x00] = .ok (.ldI 0x22A, [0x00]) := by rfl
theorem test_decode_truncated : decode [0xA2] = .error .truncated := by rfl

/-- Vector S1's first word. -/
theorem test_encode_ldI : encode (.ldI 0x22A) = [0xA2, 0x2A] := by decide
theorem test_encode_draw : encode (.drw 0x0 0x1 0x5) = [0xD0, 0x15] := by decide

/-- The syntax of R70; the first line stands in 95_test_vectors.md P3. -/
theorem test_assembly_load : assembly (.load 0x2) = "LD V2, [I]" := by decide
theorem test_assembly_draw : assembly (.drw 0x0 0x1 0x5) = "DRW V0, V1, 0x5" := by decide

/-- The host's numbering: bit 0 of the table is bit 0 of the word. -/
theorem test_decode_table_word : decodeTableWord 16 0x8AB7 = some (.subn 0xA 0xB) := by decide

/-! ### Control transfer (vectors F1 to F24) -/

/-- F1. -/
theorem test_jp : (after 0x1200 State.reset).map (·.pc) = some 0x200 := by decide
/-- F2: halted. -/
theorem test_jp_halts : (after 0x1FFE State.reset).map (fun t => (t.pc, t.halted)) = some (0xFFE, true) := by decide
/-- F4: the address pushed is the CALL's own. -/
theorem test_call : (after 0x2400 (withStack 15 (withPc 0x300 State.reset))).map (fun t => (t.stack[15], t.sp, t.pc)) =
    some (0x300, 16, 0x400) := by decide
/-- F5. -/
theorem test_call_overflow : (after 0x2400 (withStack 16 (withPc 0x300 State.reset))).map
    (fun t => (t.fault, t.faultInfo, t.sp, t.pc)) = some (.stackOverflow, 0x300, 16, 0x300) := by decide
/-- F7: the slot keeps its value. -/
theorem test_ret : (after 0x00EE (withStack 1 (withPc 0x210 State.reset))).map (fun t => (t.sp, t.pc, t.stack[0])) =
    some (0, 0x206, 0x204) := by decide
/-- F6. -/
theorem test_ret_underflow : (after 0x00EE State.reset).map (fun t => (t.fault, t.faultInfo, t.pc)) =
    some (.stackUnderflow, 0x200, 0x200) := by decide
/-- F8. -/
theorem test_seImm_skips : (after 0x3A42 (regs [(0xA, 0x42)])).map (·.pc) = some 0x204 := by decide
/-- F9. -/
theorem test_seImm_falls : (after 0x3A42 (regs [(0xA, 0x43)])).map (·.pc) = some 0x202 := by decide
/-- F10. -/
theorem test_sneImm_falls : (after 0x4A42 (regs [(0xA, 0x42)])).map (·.pc) = some 0x202 := by decide
/-- F11. -/
theorem test_sneImm_skips : (after 0x4A42 (regs [(0xA, 0x43)])).map (·.pc) = some 0x204 := by decide
/-- F12. -/
theorem test_seReg_skips : (after 0x5AB0 (regs [(0xA, 9), (0xB, 9)])).map (·.pc) = some 0x204 := by decide
/-- F13. -/
theorem test_seReg_falls : (after 0x5AB0 (regs [(0xA, 9), (0xB, 8)])).map (·.pc) = some 0x202 := by decide
/-- F15. -/
theorem test_sneReg_falls : (after 0x9AB0 (regs [(0xA, 9), (0xB, 9)])).map (·.pc) = some 0x202 := by decide
/-- F16. -/
theorem test_sneReg_skips : (after 0x9AB0 (regs [(0xA, 9), (0xB, 8)])).map (·.pc) = some 0x204 := by decide
/-- F17. -/
theorem test_jpV0 : (after 0xB300 (regs [(0, 4)])).map (·.pc) = some 0x304 := by decide
/-- F18: not reduced to 12 bits. -/
theorem test_jpV0_above : (after 0xBFFF (regs [(0, 0xFF)])).map (fun t => (t.pc, t.halted)) = some (0x10FE, true) := by decide
/-- F22: stepped without a program. -/
theorem test_unprogrammed : (nextOf (step State.reset)).map (fun t => (t.fault, t.faultInfo, t.pc)) =
    some (.illegalOpcode, 0x0000, 0x200) := by decide
/-- F21: at 0xFFE nothing is fetched. -/
theorem test_halted_step : nextOf (step (withPc 0xFFE State.reset)) = some (withPc 0xFFE State.reset) := by decide
/-- F20: an odd `pc`, up to the last word. -/
theorem test_odd_pc : (nextOf (step (withMem 0xFFD [0x60, 0x07] (withPc 0xFFD State.reset)))).map (fun t => (t.reg 0, t.pc)) =
    some (0x07, 0xFFF) := by decide

/-! ### Register file and ALU (vectors A1 to A36) -/

/-- A1. -/
theorem test_ldImm : (after 0x6FAB State.reset).map (·.reg 0xF) = some 0xAB := by decide
/-- A2: wraps, VF not touched. -/
theorem test_addImm_wraps : (after 0x7101 (regs [(1, 0xFF)])).map (fun t => (t.reg 1, t.reg 0xF)) = some (0, 0) := by decide
/-- A4. -/
theorem test_addImm_vf : (after 0x7F01 (regs [(0xF, 0xFF)])).map (·.reg 0xF) = some 0 := by decide
/-- A5. -/
theorem test_ldReg : (after 0x8120 (regs [(2, 0x7A)])).map (·.reg 1) = some 0x7A := by decide
/-- A6. -/
theorem test_or : (after 0x8121 (regs [(1, 0x0F), (2, 0xF0), (0xF, 1)])).map (fun t => (t.reg 1, t.reg 0xF)) =
    some (0xFF, 0) := by decide
/-- A9: the destination is VF. -/
theorem test_or_vf : (after 0x8F21 (regs [(0xF, 1), (2, 0xF0)])).map (·.reg 0xF) = some 0 := by decide
/-- A7. -/
theorem test_and : (after 0x8122 (regs [(1, 0x3C), (2, 0x0F), (0xF, 1)])).map (fun t => (t.reg 1, t.reg 0xF)) =
    some (0x0C, 0) := by decide
/-- A8. -/
theorem test_xor : (after 0x8123 (regs [(1, 0xFF), (2, 0x0F), (0xF, 1)])).map (fun t => (t.reg 1, t.reg 0xF)) =
    some (0xF0, 0) := by decide
/-- A11. -/
theorem test_xor_vf : (after 0x8FF3 (regs [(0xF, 0x5A)])).map (·.reg 0xF) = some 0 := by decide
/-- A12. -/
theorem test_addReg : (after 0x8014 (regs [(0, 0xFF), (1, 2)])).map (fun t => (t.reg 0, t.reg 0xF)) = some (1, 1) := by decide
/-- A17: VF is a source. -/
theorem test_addReg_vf : (after 0x80F4 (regs [(0, 0x10), (0xF, 1)])).map (fun t => (t.reg 0, t.reg 0xF)) =
    some (0x11, 0) := by decide
/-- A18. -/
theorem test_sub_equal : (after 0x8015 (regs [(0, 5), (1, 5)])).map (fun t => (t.reg 0, t.reg 0xF)) = some (0, 1) := by decide
/-- A21. -/
theorem test_sub_borrow : (after 0x80F5 (regs [(0, 3), (0xF, 5)])).map (fun t => (t.reg 0, t.reg 0xF)) =
    some (0xFE, 0) := by decide
/-- A25. -/
theorem test_shr : (after 0x8016 (regs [(1, 0xFF)])).map (fun t => (t.reg 0, t.reg 1, t.reg 0xF)) =
    some (0x7F, 0xFF, 1) := by decide
/-- A27 qF. -/
theorem test_shr_no_quirk : (after 0x8016 (withQuirks false (regs [(0, 3), (1, 2)]))).map (fun t => (t.reg 0, t.reg 0xF)) =
    some (1, 1) := by decide
/-- A22. -/
theorem test_subn_borrow : (after 0x8017 (regs [(0, 1)])).map (fun t => (t.reg 0, t.reg 0xF)) = some (0xFF, 0) := by decide
/-- A23. -/
theorem test_subn : (after 0x8017 (regs [(1, 1)])).map (fun t => (t.reg 0, t.reg 0xF)) = some (1, 1) := by decide
/-- A30. -/
theorem test_shl : (after 0x801E (regs [(1, 0xFF)])).map (fun t => (t.reg 0, t.reg 0xF)) = some (0xFE, 1) := by decide
/-- A32 qF. -/
theorem test_shl_no_quirk : (after 0x801E (withQuirks false (regs [(0, 0x81), (1, 0x40)]))).map
    (fun t => (t.reg 0, t.reg 0xF)) = some (2, 1) := by decide
/-- A34: the draw AND 0, whatever is drawn. -/
theorem test_rnd_zero : ∀ t, exec (.rnd 0 0) State.reset = .next t → t.reg 0 = 0 ∧ t.draws = 1 := by
  intro t h
  injection h with h
  subst h
  exact ⟨BitVec.and_zero, rfl⟩

/-! ### Keypad, timers and the events (vectors K1 to K22) -/

/-- K1. -/
theorem test_skp : (after 0xE29E ((regs [(2, 0xA)]).setKey 0xA true)).map (·.pc) = some 0x204 := by decide
/-- K5. -/
theorem test_skp_key_index : (after 0xE29E (regs [(2, 0x10)])).map (fun t => (t.fault, t.faultInfo, t.pc)) =
    some (.keyIndex, 0x10, 0x200) := by decide
/-- K3. -/
theorem test_sknp : (after 0xE2A1 ((regs [(2, 0xA)]).setKey 0xA true)).map (·.pc) = some 0x202 := by decide
/-- K6. -/
theorem test_sknp_key_index : (after 0xE2A1 (regs [(2, 0xFF)])).map (fun t => (t.fault, t.faultInfo, t.pc)) =
    some (.keyIndex, 0xFF, 0x200) := by decide
/-- K7. -/
theorem test_ldVxDt : (after 0xF407 (State.reset.setDt 0x3C)).map (·.reg 4) = some 0x3C := by decide
/-- K8. -/
theorem test_ldDtVx : (after 0xF015 (regs [(0, 5)])).map (·.dt) = some 5 := by decide
/-- K9. -/
theorem test_ldStVx : (after 0xF118 (regs [(1, 2)])).map (fun t => (t.st, t.soundOn)) = some (2, false) := by decide
/-- K14. -/
theorem test_ldVxK : (after 0xF30A (regs [(3, 9)])).map (fun t => (t.waiting, t.waitReg, t.pc, t.reg 3)) =
    some (true, 3, 0x202, 9) := by decide
/-- K10. -/
theorem test_tick : (fun t : State => (t.dt, t.st, t.soundOn)) (tick ((State.reset.setDt 1).setSt 2)) = (0, 1, true) := by decide
/-- K11. -/
theorem test_tick_sound_ends : (fun t : State => (t.dt, t.st, t.soundOn)) (tick (State.reset.setSt 1)) = (0, 0, false) := by
  decide
/-- K18. -/
theorem test_press_ends_wait : (fun t : State => (t.key 7, t.reg 3, t.waiting))
    (setKeyEvent 7 true (waitingFor 3 State.reset)) = (true, 7, false) := by decide
/-- K17. -/
theorem test_release_keeps_wait : (fun t : State => (t.key 7, t.reg 3, t.waiting))
    (setKeyEvent 7 false (waitingFor 3 (State.reset.setKey 7 true))) = (false, 0, true) := by decide
/-- K22. -/
theorem test_ack : (ackRedraw (State.reset.setFrame Frame.clear)).redraw = false := by decide

/-- The host reads `halted` as a function of `pc` (R25). -/
theorem test_host_view : (withPc 0xFFE State.reset).hostView.halted = true ∧ State.reset.hostView.halted = false ∧
    State.reset.hostView.pc = 0x200 := by decide

/-! ### Index register and memory (vectors M1 to M21) -/

/-- M1. -/
theorem test_ldI : (after 0xA22A State.reset).map (·.i) = some 0x22A := by decide
/-- M4. -/
theorem test_addI : (after 0xF01E (withI 0xFFF (regs [(0, 1)]))).map (fun t => (t.i, t.reg 0xF)) = some (0x1000, 0) := by decide
/-- M5. -/
theorem test_addI_wraps : (after 0xF01E (withI 0xFFFF (regs [(0, 1)]))).map (·.i) = some 0 := by decide
/-- M6. -/
theorem test_ldF : (after 0xF029 (regs [(0, 5)])).map (·.i) = some 0x19 := by decide
/-- M7: the low nibble only. -/
theorem test_ldF_low_nibble : (after 0xF029 (regs [(0, 0x1A)])).map (·.i) = some 0x32 := by decide
/-- M10. -/
theorem test_ldB : (after 0xF033 (withI 0xFFD (regs [(0, 0xFF)]))).map
    (fun t => (t.readByte 0xFFD, t.readByte 0xFFE, t.readByte 0xFFF, t.i)) = some (2, 5, 5, 0xFFD) := by decide
/-- M13. -/
theorem test_ldB_bounds : (after 0xF033 (withI 0xFFE State.reset)).map (fun t => (t.fault, t.faultInfo, t.pc)) =
    some (.memoryBounds, 0xFFE, 0x200) := by decide
/-- M14. -/
theorem test_dump : (after 0xF255 (withI 0x303 (regs [(0, 5), (1, 3), (2, 4)]))).map
    (fun t => (t.readByte 0x303, t.readByte 0x304, t.readByte 0x305, t.i)) = some (5, 3, 4, 0x306) := by decide
/-- M18. -/
theorem test_dump_bounds : (after 0xFF55 (withI 0xFF1 State.reset)).map (fun t => (t.fault, t.faultInfo, t.i)) =
    some (.memoryBounds, 0xFF1, 0xFF1) := by decide
/-- M19 qF. -/
theorem test_load_font : (after 0xF465 (withQuirks false (regs [(5, 0x55)]))).map
    (fun t => (t.reg 0, t.reg 1, t.reg 4, t.reg 5, t.i)) = some (0xF0, 0x90, 0xF0, 0x55, 0) := by decide
/-- M20. -/
theorem test_load_bounds : (after 0xF065 (withI 0x1000 State.reset)).map (fun t => (t.fault, t.faultInfo, t.reg 0)) =
    some (.memoryBounds, 0x1000, 0) := by decide
/-- 40_execution_cycle_and_flow.md R80 with 20_memory.md R42: the high byte lies at `pc`. -/
theorem test_load_program_big_endian :
    (loadProgram defaultFont [0xA2, 0x2A] State.reset).2.fetchWord = 0xA22A := by decide
/-- The canonical form: writing the byte an unlisted address reads as takes the cell off the list. -/
theorem test_memory_canonical : (Memory.write (Memory.write [] 0x300 5) 0x300 0) = [] := by decide

/-! ### Display (vectors X1 to X12) -/

/-- X1. -/
theorem test_cls : (after 0x00E0 (withPixel 3 4 (regs [(0xF, 7)]))).map (fun t => (t.pixel 3 4, t.redraw, t.reg 0xF)) =
    some (false, true, 7) := by decide
/-- X2: wraps both ways. -/
theorem test_drw_wraps : (after 0xD012 (withMem 0x300 [0xFF, 0xFF] (withI 0x300 (regs [(0, 62), (1, 31)])))).map
    (fun t => (t.pixel 31 63, t.pixel 0 0, t.pixel 31 5, t.pixel 0 6, t.reg 0xF)) = some (true, true, true, false, 0) := by
  decide
/-- X6: a collision beside a new pixel; bit 7 is the leftmost. -/
theorem test_drw_collision : (after 0xD011 (withPixel 0 0 (withMem 0x300 [0xC0] (withI 0x300 State.reset)))).map
    (fun t => (t.pixel 0 0, t.pixel 0 1, t.pixel 0 2, t.reg 0xF)) = some (false, true, false, 1) := by decide

/-! ### Witnesses: the hypotheses of each obligation are met -/

/-- DecodeReadsBackEveryEncoding. -/
theorem witness_wf : (Instr.drw 0xF 0xF 0xF).wf = true ∧ (Instr.jp 0xFFF).wf = true ∧ (Instr.rnd 0xF 0xFF).wf = true := by decide
/-- DecodedBytesAreTheEncoding. -/
theorem witness_decode_ok : decode [0xD0, 0x15, 0x00] = .ok (.drw 0 1 5, [0x00]) := by rfl
/-- OpcodeRowsAreDisjointAndDecisive: a word of a row, a word of none. -/
theorem witness_rows : (∃ r ∈ opcodeRows, (0x8AB7 : Word) &&& r.mask = r.pattern) ∧
    ∀ r ∈ opcodeRows, (0x8AB8 : Word) &&& r.mask ≠ r.pattern := by decide
/-- UnrecognizedWordsAreTheTabledOnes: a word of each line. -/
theorem witness_unrecognized : decodeWord 0x00E1 = none ∧ decodeWord 0x5AB1 = none ∧ decodeWord 0x8AB8 = none ∧
    decodeWord 0x9AB1 = none ∧ decodeWord 0xEA9F = none ∧ decodeWord 0xFA08 = none := by decide

/-- A machine about to run `ADD V0, V1` at 0x200. -/
def runnable : State := withMem 0x200 [0x80, 0x14] State.reset
/-- A machine in its key-wait. -/
def waitingState : State := waitingFor 3 State.reset
/-- A machine with a fault set. -/
def faulted : State := { State.reset with fault := .keyIndex, faultInfo := 0x10 }

/-- StepRunsTheDecodedInstruction: each reason to do nothing, alone. -/
theorem witness_blocked : (faulted.fault ≠ .noFault ∧ faulted.waiting = false ∧ faulted.pc.toNat < 4094) ∧
    (waitingState.fault = .noFault ∧ waitingState.waiting = true ∧ waitingState.pc.toNat < 4094) ∧
    ((withPc 4094 State.reset).fault = .noFault ∧ (withPc 4094 State.reset).waiting = false) := by decide
/-- StepRunsTheDecodedInstruction: a word that decodes, also at the last `pc` that fetches. -/
theorem witness_step_decodes : runnable.fault = .noFault ∧ runnable.waiting = false ∧ runnable.pc.toNat < 4094 ∧
    runnable.readByte 0x200 = 0x80 ∧ runnable.readByte 0x201 = 0x14 ∧ (Instr.addReg 0 1).wf = true ∧
    (withMem 4093 [0x60, 0x07] (withPc 4093 State.reset)).readByte 4093 = 0x60 := by decide
theorem witness_step_decode_ok : decode [0x80, 0x14] = .ok (.addReg 0 1, []) := by rfl
/-- StepRunsTheDecodedInstruction: a word that does not (reset memory holds it). -/
theorem witness_step_unrecognized : decode [0x00, 0x00] = .error (.unrecognized ((0x00 : Byte) ++ (0x00 : Byte))) := by rfl
/-- UnrecognizedWordRaisesIllegalOpcode, FaultsAreRaisedExactlyAsTabled (last clause). -/
theorem witness_unprogrammed : State.reset.blocked = false ∧ decodeWord State.reset.fetchWord = none := by decide
/-- StepHasExactlyOneOutcome: its three cases. -/
theorem witness_outcomes : faulted.blocked = true ∧
    (runnable.blocked = false ∧ decodeWord runnable.fetchWord = some (.addReg 0 1) ∧ faultOf (.addReg 0 1) runnable = none) ∧
    faultOf .ret State.reset = some (.stackUnderflow, 0x200) := by decide
/-- FaultsAreRaisedExactlyAsTabled: each condition at its boundary, and just inside it. -/
theorem witness_fault_conditions :
    (faultOf (.call 0x400) (withStack 16 State.reset) = some (.stackOverflow, 0x200) ∧
      faultOf (.call 0x400) (withStack 15 State.reset) = none) ∧
    (faultOf .ret (withStack 0 State.reset) = some (.stackUnderflow, 0x200) ∧ faultOf .ret (withStack 1 State.reset) = none) ∧
    (faultOf (.ldB 0) (withI 0xFFE State.reset) = some (.memoryBounds, 0xFFE) ∧
      faultOf (.ldB 0) (withI 0xFFD State.reset) = none) ∧
    (faultOf (.dump 0xF) (withI 0xFF1 State.reset) = some (.memoryBounds, 0xFF1) ∧
      faultOf (.dump 0xF) (withI 0xFF0 State.reset) = none) ∧
    (faultOf (.load 0) (withI 0x1000 State.reset) = some (.memoryBounds, 0x1000) ∧
      faultOf (.load 0) (withI 0xFFF State.reset) = none) ∧
    (faultOf (.drw 0 0 2) (withI 0xFFF State.reset) = some (.memoryBounds, 0xFFF) ∧
      faultOf (.drw 0 0 1) (withI 0xFFF State.reset) = none ∧ faultOf (.drw 0 0 0) (withI 0xFFFF State.reset) = none) ∧
    (faultOf (.skp 0) (regs [(0, 16)]) = some (.keyIndex, 16) ∧ faultOf (.skp 0) (regs [(0, 15)]) = none) ∧
    (faultOf (.sknp 0) (regs [(0, 16)]) = some (.keyIndex, 16) ∧ faultOf (.sknp 0) (regs [(0, 15)]) = none) := by decide
/-- FaultLatchIsLeftOnlyByReset: a fault; events that keep it and one that clears it. -/
theorem witness_fault_latch : faulted.fault ≠ .noFault ∧
    (nextOf (applyEvent defaultFont (.setKey 7 true) faulted)).map (·.fault) = some .keyIndex ∧
    (nextOf (applyEvent defaultFont (.reset ⟨true, true⟩) faulted)).map (·.fault) = some .noFault := by decide
/-- EndedRunIsFinal: ended by a fault, ended well, and events that follow. -/
theorem witness_ended : faulted.runEnded = true ∧ faulted.endedWell = false ∧ (withPc 0xFFE State.reset).endedWell = true ∧
    (waitingFor 3 (withPc 0xFFE State.reset)).runEnded = false ∧
    ∀ e ∈ ([.step, .tick, .setKey 7 true, .ackRedraw] : List Event),
      (∀ cfg, e ≠ .reset cfg) ∧ ∀ bytes, e ≠ .loadProgram bytes := by
  refine ⟨by decide, by decide, by decide, by decide, ?_⟩
  simp
/-- PcAdvancesByTwoOrSkips: an instruction that falls through and one that skips. -/
theorem witness_advance :
    (∃ t, exec (.ldImm 1 2) State.reset = .next t ∧ faultOf (.ldImm 1 2) State.reset = none ∧ t.pc = 0x202) ∧
    (∃ t, exec (.seImm 1 0) State.reset = .next t ∧ faultOf (.seImm 1 0) State.reset = none ∧ t.pc = 0x204) :=
  ⟨⟨_, rfl, rfl, rfl⟩, ⟨_, rfl, rfl, rfl⟩⟩
/-- PlacedWordIsFetchedAndRun. -/
theorem witness_placed : decodeTableWord 16 0xF265 = some (.load 2) := by decide
/-- CallPushesItsOwnAddress, CallThenReturnRoundTrip: the last entry free, none free. -/
theorem witness_call : (withStack 15 State.reset).sp.val < 16 ∧ (withStack 0 State.reset).sp.val < 16 ∧
    (withStack 16 State.reset).sp.val = 16 := by decide
/-- ReturnPopsAndAddsTwo: one entry, sixteen, none. -/
theorem witness_ret : (withStack 1 State.reset).sp.val = (0 : Fin 16).val + 1 ∧
    (withStack 16 State.reset).sp.val = (15 : Fin 16).val + 1 ∧ State.reset.sp.val = 0 := by decide
/-- CallThenReturnRoundTrip: between the two the stack and `sp` are as the CALL left them; an instruction other than CALL. -/
theorem witness_call_then_return :
    (∃ t u : State, exec (.call 0x400) State.reset = .next t ∧ u.sp = t.sp ∧
      ∀ j : Fin 16, j.val = State.reset.sp.val → u.stack[j] = t.stack[j]) ∧
    (∃ t, exec .ret (withStack 1 State.reset) = .next t) :=
  ⟨⟨_, _, rfl, rfl, fun _ _ => rfl⟩, ⟨_, rfl⟩⟩
/-- ShiftsTakeTheQuirksSource: the source under each setting. -/
theorem witness_shift_source :
    (fun s : State => if s.quirks.shiftQuirk = true then (s.reg 1).toNat else (s.reg 0).toNat)
      (withQuirks true (regs [(0, 3), (1, 2)])) = 2 ∧
    (fun s : State => if s.quirks.shiftQuirk = true then (s.reg 1).toNat else (s.reg 0).toNat)
      (withQuirks false (regs [(0, 3), (1, 2)])) = 3 := by decide
/-- RandomAndsAFreeByte. -/
theorem witness_random_mask : (0x0F : Byte).getLsbD 7 = false := by decide
/-- OnlyListedInstructionsWriteRegisters: VF under AND immediate's neighbour ADD immediate, a register above a bulk load's. -/
theorem witness_writers : (∃ t, exec (.addImm 1 0xFF) State.reset = .next t) ∧ writesReg (.addImm 1 0xFF) 0xF = false ∧
    writesReg (.load 3) 4 = false ∧ writesReg (.load 3) 3 = true ∧ writesReg (.addReg 1 2) 0xF = true :=
  ⟨⟨_, rfl⟩, rfl, rfl, rfl, rfl⟩
/-- KeyTestsSkipByLevel: the last key index and the first that is none; a key down and a key up. -/
theorem witness_key_tests : ((regs [(2, 15)]).reg 2).toNat = (15 : Nibble).toNat ∧ ((regs [(2, 16)]).reg 2).toNat > 15 ∧
    (State.reset.setKey 15 true).key 15 = true ∧ State.reset.key 15 = false := by decide
/-- KeyWaitBeginsAndEnds: not faulted; an event that ends the wait. -/
theorem witness_key_wait : State.reset.fault = .noFault ∧
    (∃ t u, exec (.ldVxK 3) State.reset = .next t ∧ applyEvent defaultFont (.setKey 7 true) t = .next u ∧ u.waiting = false) :=
  ⟨rfl, _, _, rfl, rfl, rfl⟩
/-- KeyWaitHoldsUntilAPress, SetKeySetsTheLevelAndEndsAWait. -/
theorem witness_waiting : waitingState.waiting = true ∧ waitingState.fault = .noFault ∧
    (∀ e ∈ ([.step, .tick, .ackRedraw, .setKey 5 false] : List Event),
      e = .step ∨ e = .tick ∨ e = .ackRedraw ∨ ∃ k, e = .setKey k false) ∧
    ¬ (true = true ∧ State.reset.waiting = true ∧ State.reset.fault = .noFault) := by
  refine ⟨by decide, by decide, ?_, by decide⟩
  simp
/-- StoreBcdWritesThreeDigits: the last `I` inside, the first outside. -/
theorem witness_bcd : (withI 0xFFD State.reset).i.toNat + 2 ≤ 0xFFF ∧ (withI 0xFFE State.reset).i.toNat + 2 > 0xFFF := by decide
/-- RegisterDumpStoresZeroToX, RegisterLoadReadsZeroToX: the last `I` inside, the first outside; both settings of the quirk. -/
theorem witness_bulk : (withI 0xFF0 State.reset).i.toNat + (15 : Nibble).toNat ≤ 0xFFF ∧
    (withI 0xFF1 State.reset).i.toNat + (15 : Nibble).toNat > 0xFFF ∧
    State.reset.quirks.incrementIndexQuirk = true ∧ (withQuirks false State.reset).quirks.incrementIndexQuirk = false := by
  decide
/-- DumpThenLoadRestores, with the state the dump leaves. -/
theorem witness_dump_load : (withI 0xFF0 State.reset).i.toNat = (0xFF0 : Addr).toNat ∧
    (0xFF0 : Addr).toNat + (15 : Nibble).toNat ≤ 0xFFF ∧
    ∃ t u : State, exec (.dump 15) (withI 0xFF0 State.reset) = .next t ∧
      ∀ b : Addr, (0xFF0 : Addr).toNat ≤ b.toNat → b.toNat ≤ (0xFF0 : Addr).toNat + (15 : Nibble).toNat →
        u.readByte b = t.readByte b :=
  ⟨rfl, by decide, _, _, rfl, fun _ _ _ => rfl⟩
/-- StoredWordIsFetchedNext: the two registers land on the next instruction. -/
theorem witness_self_modifying : 0 + 1 ≤ (1 : Nibble).toNat ∧ (withI 0x202 State.reset).i.toNat + (1 : Nibble).toNat ≤ 0xFFF ∧
    (withI 0x202 State.reset).i.toNat + 0 = (withI 0x202 State.reset).pc.toNat + 2 ∧
    ∃ t, exec (.dump 1) (withI 0x202 State.reset) = .next t :=
  ⟨by decide, by decide, by decide, _, rfl⟩
/-- DrawInvertsSpritePixels: no rows, the last row at 0xFFF, a row beyond. -/
theorem witness_draw : (withI 0xFFF State.reset).i.toNat + (1 : Nibble).toNat - 1 ≤ 0xFFF ∧
    ((2 : Nibble) ≠ 0 ∧ (withI 0xFFF State.reset).i.toNat + (2 : Nibble).toNat - 1 > 0xFFF) ∧
    ((0 : Nibble) = 0 ∧ (withI 0xFFFF State.reset).i.toNat = 0xFFFF) ∧
    State.reset.SpriteBit 0 0 1 0 0 :=
  ⟨by decide, by decide, by decide, 0, 0, by decide, by decide, by decide, by decide, by decide⟩
/-- DrawTwiceRestoresTheScreen, RedrawMarkIsSetByDrawing: both draws complete; CLS then DRW, CLS then CLS. -/
theorem witness_draw_twice : (0 : Nibble) ≠ 0xF ∧ faultOf (.drw 0 1 5) State.reset = none ∧
    (∃ t u, exec (.drw 0 1 5) State.reset = .next t ∧ exec (.drw 0 1 5) t = .next u) ∧
    (∃ t u, exec .cls State.reset = .next t ∧ faultOf (.drw 0 1 5) t = none ∧ exec (.drw 0 1 5) t = .next u) ∧
    (∃ t u, exec .cls State.reset = .next t ∧ exec .cls t = .next u) :=
  ⟨by decide, rfl, ⟨_, _, rfl, rfl⟩, ⟨_, _, rfl, rfl, rfl⟩, ⟨_, _, rfl, rfl⟩⟩
/-- RedrawMarkIsSetByDrawing: the mark set, and an event that clears it. -/
theorem witness_redraw : (State.reset.setFrame Frame.clear).redraw = true ∧
    ∃ t, applyEvent defaultFont .ackRedraw (State.reset.setFrame Frame.clear) = .next t ∧ t.redraw = false :=
  ⟨rfl, _, rfl, rfl⟩
/-- EveryStateHasOnlyItsWriters: an instruction outside every list. -/
theorem witness_no_writer : (∃ t, exec (.jp 0x300) State.reset = .next t) ∧
    (withQuirks false State.reset).quirks.incrementIndexQuirk = false ∧
    (∀ x, Instr.jp 0x300 ≠ .ldB x ∧ Instr.jp 0x300 ≠ .dump x) := by
  refine ⟨⟨_, rfl⟩, by decide, ?_⟩
  simp
/-- StepReadsNoOutput: two machines that differ in the outputs. -/
theorem witness_outputs : ∃ s' : State, s' ≠ runnable ∧ s' = { runnable with
    redraw := s'.redraw, soundOn := s'.soundOn, st := s'.st, faultInfo := s'.faultInfo, waitReg := s'.waitReg } :=
  ⟨{ runnable with redraw := true, st := 9 }, by decide, rfl⟩
/-- LoadProgramCopiesOrFails: the longest image, and one byte more. -/
theorem witness_rom_length : (List.replicate 3584 (0 : Byte)).length ≤ 3584 ∧ 3584 < (List.replicate 3585 (0 : Byte)).length := by
  simp only [List.length_replicate]; decide
/-- StepKeepsTheInvariant, EveryRunCompletesAndKeepsTheInvariant: a running machine with a return address in use. -/
theorem witness_invariant : (withStack 1 runnable).Inv ∧ ∃ t, step (withStack 1 runnable) = .next t :=
  ⟨⟨by decide, by decide, by decide, by decide, by decide, by decide⟩, _, rfl⟩
/-- EqualReadsAreEqualMemories: two orders of two writes. -/
theorem witness_memories :
    (Memory.write (Memory.write [] 0x300 5) 0x301 6).wf ∧ (Memory.write (Memory.write [] 0x301 6) 0x300 5).wf ∧
    ∀ a, (Memory.write (Memory.write [] 0x300 5) 0x301 6).read a = (Memory.write (Memory.write [] 0x301 6) 0x300 5).read a := by
  have h : Memory.write (Memory.write [] 0x300 5) 0x301 6 = Memory.write (Memory.write [] 0x301 6) 0x300 5 := by decide
  exact ⟨by decide, by decide, fun a => by rw [h]⟩

end Sys2Proof.Tests
end

section
/-! The opcode rows as a match (spec 30_encoding.md, R64, R66): the rows are disjoint, and they decide every word. -/
namespace Sys2Proof

/-- No word matches both rows. -/
def OpcodeRow.Disjoint (r q : OpcodeRow) : Prop :=
  ∀ op : Word, ¬ (op &&& r.mask = r.pattern ∧ op &&& q.mask = q.pattern)

theorem OpcodeRow.hits_iff (r : OpcodeRow) (op : Word) : r.hits op = true ↔ op &&& r.mask = r.pattern := beq_iff_eq

theorem OpcodeRow.Disjoint.symm {r q : OpcodeRow} (h : r.Disjoint q) : q.Disjoint r := fun op hop => h op hop.symm

/-- Rows whose patterns differ in a bit that both masks test are disjoint: a word that matches both rows would carry both
patterns there. -/
theorem OpcodeRow.disjoint_of_patterns_differ {r q : OpcodeRow} (h : r.pattern &&& q.mask ≠ q.pattern &&& r.mask) :
    r.Disjoint q := by
  rintro op ⟨hr, hq⟩
  refine h ?_
  calc r.pattern &&& q.mask = op &&& r.mask &&& q.mask := by rw [hr]
    _ = op &&& q.mask &&& r.mask := by rw [BitVec.and_assoc, BitVec.and_comm r.mask, ← BitVec.and_assoc]
    _ = q.pattern &&& r.mask := by rw [hq]

/-- The finite check over R66: the patterns of any two of its rows differ in a bit that both masks test. -/
theorem opcodeRows_patterns_differ :
    opcodeRows.Pairwise (fun r q => r.pattern &&& q.mask ≠ q.pattern &&& r.mask) := by decide

theorem opcodeRows_pairwise_disjoint : opcodeRows.Pairwise OpcodeRow.Disjoint :=
  opcodeRows_patterns_differ.imp OpcodeRow.disjoint_of_patterns_differ

/-- In pairwise disjoint rows at most one row matches a word (R64). -/
theorem eq_of_hits {rows : List OpcodeRow} (hdis : rows.Pairwise OpcodeRow.Disjoint) {op : Word} {r q : OpcodeRow}
    (hr : r ∈ rows) (hq : q ∈ rows) (hrop : r.hits op = true) (hqop : q.hits op = true) : q = r := by
  have hsymm : Std.Symm OpcodeRow.Disjoint := ⟨fun _ _ h => h.symm⟩
  by_contra hne
  exact hdis.forall hq hr hne op ⟨(q.hits_iff op).mp hqop, (r.hits_iff op).mp hrop⟩

/-- In pairwise disjoint rows the search finds the row that matches, wherever it stands. -/
theorem find_hits_of_mem {rows : List OpcodeRow} (hdis : rows.Pairwise OpcodeRow.Disjoint) {op : Word} {r : OpcodeRow}
    (hr : r ∈ rows) (hrop : r.hits op = true) : rows.find? (·.hits op) = some r := by
  have hsome : (rows.find? (·.hits op)).isSome := List.find?_isSome.mpr ⟨r, hr, hrop⟩
  obtain ⟨q, hq⟩ := Option.isSome_iff_exists.mp hsome
  have hqop : q.hits op = true := List.find?_some (p := (OpcodeRow.hits · op)) hq
  rw [hq, eq_of_hits hdis hr (List.mem_of_find?_eq_some hq) hrop hqop]

/-- R64: a word that matches a row of R66 decodes to that row's instruction. -/
theorem decodeWord_of_row {r : OpcodeRow} (hr : r ∈ opcodeRows) {op : Word} (h : op &&& r.mask = r.pattern) :
    decodeWord op = some (r.build op) := by
  rw [decodeWord, find_hits_of_mem opcodeRows_pairwise_disjoint hr ((r.hits_iff op).mpr h), Option.map_some]

/-- R64: a word that matches no row of R66 is unrecognized. -/
theorem decodeWord_of_no_row {op : Word} (h : ∀ r ∈ opcodeRows, op &&& r.mask ≠ r.pattern) : decodeWord op = none := by
  have hfind : opcodeRows.find? (·.hits op) = none :=
    List.find?_eq_none.mpr fun r hr hit => h r hr ((r.hits_iff op).mp hit)
  rw [decodeWord, hfind, Option.map_none]

/-- Settles O3: disjointness is a finite check on the patterns and masks, and in disjoint rows the search finds the row that
matches. -/
theorem opcodeRowsAreDisjointAndDecisive : Obligations.OpcodeRowsAreDisjointAndDecisive :=
  ⟨rfl, opcodeRows_pairwise_disjoint, fun _ => ⟨fun _ hr h => decodeWord_of_row hr h, decodeWord_of_no_row⟩⟩

end Sys2Proof
end

section
/-! The index register's two loads (spec 43_index_and_memory.md, R130, R132): how the words `Annn` and `Fx29` decode, and what an
instruction that only sets `I` and goes on to the next one answers. -/
namespace Sys2Proof

/-! ### Decoding a form by its row -/

theorem formNnn_and (a p : Nibble) (m n : Addr) : formNnn a m &&& formNnn p n = formNnn (a &&& p) (m &&& n) :=
  BitVec.and_append

theorem formXkk_and (a b p q : Nibble) (k l : Byte) :
    formXkk a b k &&& formXkk p q l = formXkk (a &&& p) (b &&& q) (k &&& l) :=
  BitVec.and_append.trans (congrArg (· ++ (k &&& l)) BitVec.and_append)

/-- A row of R66 that tests the family digit alone decodes every word of that family in format `NNN`. -/
theorem decodeWord_formNnn {w : Word} {f : Word → Instr} (hrow : ⟨0xF000, w, f⟩ ∈ opcodeRows) {fam : Nibble}
    (hw : w = formNnn fam 0) (nnn : Addr) : decodeWord (formNnn fam nnn) = some (f (formNnn fam nnn)) := by
  refine decodeWord_of_row hrow ?_
  calc formNnn fam nnn &&& 0xF000 = formNnn fam nnn &&& formNnn 0xF 0 := congrArg _ (by decide)
    _ = formNnn fam 0 := by rw [formNnn_and, and_maskF]; exact congrArg _ BitVec.and_zero
    _ = w := hw.symm

/-- A row of R66 that tests the family digit and the low byte decodes every word of format `X` that carries them. -/
theorem decodeWord_formXkk_fixed {w : Word} {f : Word → Instr} (hrow : ⟨0xF0FF, w, f⟩ ∈ opcodeRows) {fam : Nibble}
    {kk : Byte} (hw : w = formXkk fam 0 kk) (x : Nibble) :
    decodeWord (formXkk fam x kk) = some (f (formXkk fam x kk)) := by
  refine decodeWord_of_row hrow ?_
  calc formXkk fam x kk &&& 0xF0FF = formXkk fam x kk &&& formXkk 0xF 0 0xFF := congrArg _ (by decide)
    _ = formXkk fam 0 kk := by rw [formXkk_and, and_maskF, and_mask0]; exact congrArg _ BitVec.and_allOnes
    _ = w := hw.symm

/-- Row 20 of R66. -/
theorem ldI_row_mem : (⟨0xF000, 0xA000, fun op => .ldI (fieldNnn op)⟩ : OpcodeRow) ∈ opcodeRows := by
  simp [opcodeRows, opcodeRowsC]

/-- Row 31 of R66. -/
theorem ldF_row_mem : (⟨0xF0FF, 0xF029, fun op => .ldF (fieldX op)⟩ : OpcodeRow) ∈ opcodeRows := by
  simp [opcodeRows, opcodeRowsC]

theorem decodeWord_ldI (nnn : Addr) : decodeWord (formNnn 0xA nnn) = some (.ldI nnn) := by
  rw [decodeWord_formNnn ldI_row_mem (by decide), fieldNnn_formNnn]

theorem decodeWord_ldF (x : Nibble) : decodeWord (formXkk 0xF x 0x29) = some (.ldF x) := by
  rw [decodeWord_formXkk_fixed ldF_row_mem (by decide), fieldX_formXkk]

end Sys2Proof

namespace Sys2Proof.Machine

/-- Setting `I` and going on to the next instruction: what the answer holds and what it leaves as it was. -/
theorem next_setIndex_advance_frame {r : Result} {s : State} {w : Word} {n : Nat} (hr : r = .next (s.setIndex w).advance)
    (hw : w.toNat = n) :
    ∃ t, r = .next t ∧ t = { s with i := t.i, pc := t.pc } ∧ (∀ a, t.readByte a = s.readByte a) ∧
      t.pc = s.pc + 2 ∧ t.i.toNat = n :=
  ⟨(s.setIndex w).advance, hr, rfl, fun a => by simp, by simp, by simpa using hw⟩

theorem exec_ldI (nnn : Addr) (s : State) : exec (.ldI nnn) s = .next (s.setIndex (addrOperand nnn)).advance := rfl

theorem exec_ldF (x : Nibble) (s : State) : exec (.ldF x) s = .next (s.setIndex (glyphAddr (s.reg x))).advance := rfl

/-- Settles O30: each word matches its row, and each meaning sets `I` to the operand's value or the glyph's address and
advances. -/
theorem setIndexAndGlyphAddress : Obligations.SetIndexAndGlyphAddress := fun x nnn s =>
  ⟨⟨decodeWord_ldI nnn, next_setIndex_advance_frame (exec_ldI nnn s) (addrOperand_toNat nnn)⟩,
   ⟨decodeWord_ldF x, next_setIndex_advance_frame (exec_ldF x s) (glyphAddr_toNat (s.reg x))⟩⟩

end Sys2Proof.Machine
end

section
/-! Clearing the screen (spec 44_display.md, R140): how the word `00E0` decodes, and what CLS answers. -/
namespace Sys2Proof

/-- Row 1 of R66. -/
theorem cls_row_mem : (⟨0xFFFF, 0x00E0, fun _ => .cls⟩ : OpcodeRow) ∈ opcodeRows := by
  simp [opcodeRows, opcodeRowsA]

theorem decodeWord_cls : decodeWord 0x00E0 = some .cls := decodeWord_of_row cls_row_mem (by decide)

end Sys2Proof

namespace Sys2Proof.Machine

theorem exec_cls (s : State) : exec .cls s = .next (s.setFrame Frame.clear).advance := rfl

/-- Replacing the framebuffer and going on to the next instruction changes the framebuffer, the redraw mark and `pc` alone. -/
theorem advance_setFrame_eq (s : State) (f : Frame) :
    (s.setFrame f).advance = { s with fb := f, redraw := true, pc := s.pc + 2 } := rfl

/-- Settles O37: the word matches row 1, and the meaning replaces the framebuffer by the clear one, whose every pixel is off,
and advances. -/
theorem clearScreenClearsEveryPixel : Obligations.ClearScreenClearsEveryPixel := by
  refine fun s => ⟨decodeWord_cls, (s.setFrame Frame.clear).advance, exec_cls s, ?frame, ?memory, ?pc, ?pixels⟩
  case frame => exact advance_setFrame_eq s Frame.clear
  case memory => intro a; rw [State.advance_readByte, State.setFrame_readByte]
  case pc => rw [State.advance_pc, State.setFrame_pc]
  case pixels => intro py px; rw [State.advance_pixel, State.pixel_setFrame, Frame.get_clear]

end Sys2Proof.Machine
end

section
/-! Decoding and encoding are inverse (spec 30_encoding.md, R60 to R67): every instruction's word decodes to it, a word that
decodes is the word of what it decodes to, and the words that do not are those of R67's table. -/
namespace Sys2Proof

/-! ### The bytes of a word (R42) -/

theorem wordOfBytes_highByte_lowByte (w : Word) : wordOfBytes (highByte w) (lowByte w) = w := by
  apply BitVec.eq_of_toNat_eq
  have := w.isLt
  simp only [wordOfBytes, highByte, lowByte, toNat_append_eq, BitVec.extractLsb'_toNat, Nat.shiftRight_eq_div_pow]
  omega

theorem highByte_wordOfBytes (hi lo : Byte) : highByte (wordOfBytes hi lo) = hi := by
  apply BitVec.eq_of_toNat_eq
  have := hi.isLt
  simp only [wordOfBytes, highByte, toNat_append_eq, BitVec.extractLsb'_toNat, Nat.shiftRight_eq_div_pow]
  omega

theorem lowByte_wordOfBytes (hi lo : Byte) : lowByte (wordOfBytes hi lo) = lo := by
  apply BitVec.eq_of_toNat_eq
  have := lo.isLt
  simp only [wordOfBytes, lowByte, toNat_append_eq, BitVec.extractLsb'_toNat, Nat.shiftRight_zero]
  omega

/-- The decoder accepts two bytes and a rest exactly when their word decodes. -/
theorem decode_eq_ok_iff {bs rest : List Byte} {i : Instr} :
    decode bs = .ok (i, rest) ↔ ∃ hi lo, bs = hi :: lo :: rest ∧ decodeWord (wordOfBytes hi lo) = some i := by
  match bs with
  | [] => simp [decode]
  | [_] => simp [decode]
  | hi :: lo :: tail =>
    simp only [decode]
    cases hd : decodeWord (wordOfBytes hi lo) with
    | none => simp [hd]
    | some j => simp +contextual [hd, and_comm, and_assoc, eq_comm]

/-! ### Every instruction's word decodes to it -/

/-- A form `XKK` whose low byte is written as two nibbles is the form of those nibbles. -/
theorem formXkk_append (a b c d : Nibble) : formXkk a b (c ++ d) = formXyn a b c d := rfl

/-- R64 and R66, from the instruction's side. The cases go by the formats of R62. -/
theorem decodeWord_encodeWord (i : Instr) : decodeWord (encodeWord i) = some i := by
  cases i with
  | cls | ret => decide
  | jp | call | ldI | jpV0 =>
    rw [encodeWord, formNnn_eq, decodeWord_formXyn, ← formNnn_eq, fieldNnn_formNnn]
    simp
  | seImm | sneImm | ldImm | addImm | rnd =>
    rw [encodeWord, formXkk_eq, decodeWord_formXyn, ← formXkk_eq, fieldKk_formXkk]
    simp
  | seReg | ldReg | or | and | xor | addReg | sub | shr | subn | shl | sneReg | drw =>
    rw [encodeWord, decodeWord_formXyn]
    simp
  | skp x => exact (decodeWord_formXyn 0xE x 0x9 0xE).trans (by simp)
  | sknp x => exact (decodeWord_formXyn 0xE x 0xA 0x1).trans (by simp)
  | ldVxDt x => exact (decodeWord_formXyn 0xF x 0x0 0x7).trans (by simp)
  | ldVxK x => exact (decodeWord_formXyn 0xF x 0x0 0xA).trans (by simp)
  | ldDtVx x => exact (decodeWord_formXyn 0xF x 0x1 0x5).trans (by simp)
  | ldStVx x => exact (decodeWord_formXyn 0xF x 0x1 0x8).trans (by simp)
  | addI x => exact (decodeWord_formXyn 0xF x 0x1 0xE).trans (by simp)
  | ldF x => exact (decodeWord_formXyn 0xF x 0x2 0x9).trans (by simp)
  | ldB x => exact (decodeWord_formXyn 0xF x 0x3 0x3).trans (by simp)
  | dump x => exact (decodeWord_formXyn 0xF x 0x5 0x5).trans (by simp)
  | load x => exact (decodeWord_formXyn 0xF x 0x6 0x5).trans (by simp)

/-- Settles O1: the two bytes make the instruction's word, which decodes to it. -/
theorem decodeReadsBackEveryEncoding : Obligations.DecodeReadsBackEveryEncoding := by
  intro i rest _
  rw [decode_eq_ok_iff]
  exact ⟨highByte (encodeWord i), lowByte (encodeWord i), rfl,
    by rw [wordOfBytes_highByte_lowByte, decodeWord_encodeWord]⟩

/-- Settles O5: each word but the last is an instruction's, and the last matches no row. -/
theorem sampleWordsDecode : Obligations.SampleWordsDecode :=
  ⟨decodeWord_encodeWord .cls, decodeWord_encodeWord (.ldI 0x22A), decodeWord_encodeWord (.ldImm 0x0 0x05),
    decodeWord_encodeWord (.ldF 0x0), decodeWord_encodeWord (.drw 0x0 0x1 0x5), decodeWord_encodeWord (.subn 0xA 0xB),
    decodeWord_encodeWord (.skp 0x2), decodeWord_of_no_row (by decide)⟩

/-! ### A word that decodes is the word of its instruction -/

/-- A row that loses nothing: what it builds from a word it matches has that word. -/
def OpcodeRow.Faithful (r : OpcodeRow) : Prop := ∀ op : Word, r.hits op = true → encodeWord (r.build op) = op

/-! One lemma per mask of R66: the digits it tests are the row's own, so it is enough that the instruction built keeps the
others. -/

theorem faithful_FFFF {w : Word} {f : Word → Instr} (p q r t : Nibble) (hf : encodeWord (f w) = w)
    (hw : w = formXyn p q r t := by decide) : OpcodeRow.Faithful ⟨0xFFFF, w, f⟩ := by
  intro op h
  rw [eq_formXyn op, hits_FFFF (hw := hw), decide_eq_true_eq] at h
  obtain ⟨ha, hb, hc, hd⟩ := h
  have hop : op = w := by rw [hw, eq_formXyn op, ha, hb, hc, hd]
  rw [hop]
  exact hf

theorem faithful_F000 {w : Word} {f : Word → Instr} (p : Nibble)
    (hf : ∀ b c d, encodeWord (f (formXyn p b c d)) = formXyn p b c d) (hw : w = formXyn p 0 0 0 := by decide) :
    OpcodeRow.Faithful ⟨0xF000, w, f⟩ := by
  intro op h
  rw [eq_formXyn op] at h ⊢
  rw [hits_F000 (hw := hw), decide_eq_true_eq] at h
  rw [h]
  exact hf _ _ _

theorem faithful_F00F {w : Word} {f : Word → Instr} (p t : Nibble)
    (hf : ∀ b c, encodeWord (f (formXyn p b c t)) = formXyn p b c t) (hw : w = formXyn p 0 0 t := by decide) :
    OpcodeRow.Faithful ⟨0xF00F, w, f⟩ := by
  intro op h
  rw [eq_formXyn op] at h ⊢
  rw [hits_F00F (hw := hw), decide_eq_true_eq] at h
  obtain ⟨ha, hd⟩ := h
  rw [ha, hd]
  exact hf _ _

theorem faithful_F0FF {w : Word} {f : Word → Instr} (p r t : Nibble)
    (hf : ∀ b, encodeWord (f (formXyn p b r t)) = formXyn p b r t) (hw : w = formXyn p 0 r t := by decide) :
    OpcodeRow.Faithful ⟨0xF0FF, w, f⟩ := by
  intro op h
  rw [eq_formXyn op] at h ⊢
  rw [hits_F0FF (hw := hw), decide_eq_true_eq] at h
  obtain ⟨ha, hc, hd⟩ := h
  rw [ha, hc, hd]
  exact hf _

/-! The fields of a word make it up again, in each format of R62. -/

@[simp] theorem formNnn_fieldNnn (a b c d : Nibble) : formNnn a (fieldNnn (formXyn a b c d)) = formXyn a b c d := by
  apply BitVec.eq_of_toNat_eq
  rw [formNnn_toNat, fieldNnn_toNat, formXyn_toNat]
  omega

@[simp] theorem formXkk_fieldKk (a b c d : Nibble) : formXkk a b (fieldKk (formXyn a b c d)) = formXyn a b c d := by
  apply BitVec.eq_of_toNat_eq
  rw [formXkk_toNat, fieldKk_toNat, formXyn_toNat]
  omega

theorem opcodeRowsA_faithful : ∀ r ∈ opcodeRowsA, r.Faithful := by
  simp only [opcodeRowsA, List.forall_mem_cons, List.not_mem_nil, false_imp_iff, implies_true, and_true]
  exact ⟨faithful_FFFF 0x0 0x0 0xE 0x0 rfl, faithful_FFFF 0x0 0x0 0xE 0xE rfl,
    faithful_F000 0x1 (by simp [encodeWord]), faithful_F000 0x2 (by simp [encodeWord]),
    faithful_F000 0x3 (by simp [encodeWord]), faithful_F000 0x4 (by simp [encodeWord]),
    faithful_F00F 0x5 0x0 (by simp [encodeWord]), faithful_F000 0x6 (by simp [encodeWord]),
    faithful_F000 0x7 (by simp [encodeWord])⟩

theorem opcodeRowsB_faithful : ∀ r ∈ opcodeRowsB, r.Faithful := by
  simp only [opcodeRowsB, List.forall_mem_cons, List.not_mem_nil, false_imp_iff, implies_true, and_true]
  exact ⟨faithful_F00F 0x8 0x0 (by simp [encodeWord]), faithful_F00F 0x8 0x1 (by simp [encodeWord]),
    faithful_F00F 0x8 0x2 (by simp [encodeWord]), faithful_F00F 0x8 0x3 (by simp [encodeWord]),
    faithful_F00F 0x8 0x4 (by simp [encodeWord]), faithful_F00F 0x8 0x5 (by simp [encodeWord]),
    faithful_F00F 0x8 0x6 (by simp [encodeWord]), faithful_F00F 0x8 0x7 (by simp [encodeWord]),
    faithful_F00F 0x8 0xE (by simp [encodeWord]), faithful_F00F 0x9 0x0 (by simp [encodeWord])⟩

theorem opcodeRowsC_faithful : ∀ r ∈ opcodeRowsC, r.Faithful := by
  simp only [opcodeRowsC, List.forall_mem_cons, List.not_mem_nil, false_imp_iff, implies_true, and_true]
  exact ⟨faithful_F000 0xA (by simp [encodeWord]), faithful_F000 0xB (by simp [encodeWord]),
    faithful_F000 0xC (by simp [encodeWord]), faithful_F000 0xD (by simp [encodeWord]),
    faithful_F0FF 0xE 0x9 0xE (by simp [encodeWord, ← formXkk_append]),
    faithful_F0FF 0xE 0xA 0x1 (by simp [encodeWord, ← formXkk_append]),
    faithful_F0FF 0xF 0x0 0x7 (by simp [encodeWord, ← formXkk_append]),
    faithful_F0FF 0xF 0x0 0xA (by simp [encodeWord, ← formXkk_append]),
    faithful_F0FF 0xF 0x1 0x5 (by simp [encodeWord, ← formXkk_append]),
    faithful_F0FF 0xF 0x1 0x8 (by simp [encodeWord, ← formXkk_append]),
    faithful_F0FF 0xF 0x1 0xE (by simp [encodeWord, ← formXkk_append]),
    faithful_F0FF 0xF 0x2 0x9 (by simp [encodeWord, ← formXkk_append]),
    faithful_F0FF 0xF 0x3 0x3 (by simp [encodeWord, ← formXkk_append]),
    faithful_F0FF 0xF 0x5 0x5 (by simp [encodeWord, ← formXkk_append]),
    faithful_F0FF 0xF 0x6 0x5 (by simp [encodeWord, ← formXkk_append])⟩

theorem opcodeRows_faithful : ∀ r ∈ opcodeRows, r.Faithful := by
  rw [opcodeRows, List.forall_mem_append, List.forall_mem_append]
  exact ⟨⟨opcodeRowsA_faithful, opcodeRowsB_faithful⟩, opcodeRowsC_faithful⟩

/-- R64 and R66, from the word's side: a word that decodes is the word of its instruction. -/
theorem encodeWord_of_decodeWord {op : Word} {i : Instr} (h : decodeWord op = some i) : encodeWord i = op := by
  obtain ⟨r, hr, rfl⟩ := Option.map_eq_some_iff.mp h
  exact opcodeRows_faithful r (List.mem_of_find?_eq_some hr) op (List.find?_some (p := (OpcodeRow.hits · op)) hr)

/-- R60 and R63, for all instructions: the operands' types leave none ill-formed, and each is two bytes long. -/
theorem Instr.encodable : ∀ i : Instr, Laws.Encodable.Statement i
  | .cls => Laws.Encodable.cls
  | .ret => Laws.Encodable.ret
  | .jp nnn => Laws.Encodable.jp nnn
  | .call nnn => Laws.Encodable.call nnn
  | .seImm x kk => Laws.Encodable.seImm x kk
  | .sneImm x kk => Laws.Encodable.sneImm x kk
  | .seReg x y => Laws.Encodable.seReg x y
  | .ldImm x kk => Laws.Encodable.ldImm x kk
  | .addImm x kk => Laws.Encodable.addImm x kk
  | .ldReg x y => Laws.Encodable.ldReg x y
  | .or x y => Laws.Encodable.or x y
  | .and x y => Laws.Encodable.and x y
  | .xor x y => Laws.Encodable.xor x y
  | .addReg x y => Laws.Encodable.addReg x y
  | .sub x y => Laws.Encodable.sub x y
  | .shr x y => Laws.Encodable.shr x y
  | .subn x y => Laws.Encodable.subn x y
  | .shl x y => Laws.Encodable.shl x y
  | .sneReg x y => Laws.Encodable.sneReg x y
  | .ldI nnn => Laws.Encodable.ldI nnn
  | .jpV0 nnn => Laws.Encodable.jpV0 nnn
  | .rnd x kk => Laws.Encodable.rnd x kk
  | .drw x y n => Laws.Encodable.drw x y n
  | .skp x => Laws.Encodable.skp x
  | .sknp x => Laws.Encodable.sknp x
  | .ldVxDt x => Laws.Encodable.ldVxDt x
  | .ldVxK x => Laws.Encodable.ldVxK x
  | .ldDtVx x => Laws.Encodable.ldDtVx x
  | .ldStVx x => Laws.Encodable.ldStVx x
  | .addI x => Laws.Encodable.addI x
  | .ldF x => Laws.Encodable.ldF x
  | .ldB x => Laws.Encodable.ldB x
  | .dump x => Laws.Encodable.dump x
  | .load x => Laws.Encodable.load x

theorem Instr.wf_eq_true (i : Instr) : i.wf = true := i.encodable.1

/-- Settles O2: the word that the first two bytes make decodes to `i`, so it is the word of `i`, and its
bytes are those two. -/
theorem decodedBytesAreTheEncoding : Obligations.DecodedBytesAreTheEncoding := by
  intro bs rest i h
  obtain ⟨hi, lo, rfl, hd⟩ := decode_eq_ok_iff.mp h
  refine ⟨i.wf_eq_true, ?_⟩
  rw [encode, encodeWord_of_decodeWord hd, highByte_wordOfBytes, lowByte_wordOfBytes, List.cons_append, List.cons_append,
    List.nil_append]

end Sys2Proof
end

section
/-! The unrecognized words (spec 30_encoding.md, R67). -/
namespace Sys2Proof

/-- A chain of tests answers nothing when its first test fails and the rest answers nothing. -/
theorem ite_some_eq_none {α : Type} {P : Prop} [Decidable P] {x : α} {r : Option α} :
    (if P then some x else r) = none ↔ ¬ P ∧ r = none := by
  split <;> simp [*]

theorem formXyn_div_4096 (a b c d : Nibble) : (formXyn a b c d).toNat / 4096 = a.toNat := by
  rw [← fieldFam_toNat, BitVec.toNat_inj]
  exact (formXyn_inj.mp (eq_formXyn (formXyn a b c d))).1.symm

theorem formXyn_mod_16 (a b c d : Nibble) : (formXyn a b c d).toNat % 16 = d.toNat := by
  rw [← fieldN_toNat, fieldN_formXyn]

theorem formXyn_mod_256 (a b c d : Nibble) : (formXyn a b c d).toNat % 256 = c.toNat * 16 + d.toNat := by
  rw [formXyn_toNat]
  omega

theorem formXyn_eq_00E0 (a b c d : Nibble) : formXyn a b c d = 0x00E0 ↔ a = 0x0 ∧ b = 0x0 ∧ c = 0xE ∧ d = 0x0 :=
  formXyn_inj (p := 0x0) (q := 0x0) (r := 0xE) (t := 0x0)

theorem formXyn_eq_00EE (a b c d : Nibble) : formXyn a b c d = 0x00EE ↔ a = 0x0 ∧ b = 0x0 ∧ c = 0xE ∧ d = 0xE :=
  formXyn_inj (p := 0x0) (q := 0x0) (r := 0xE) (t := 0xE)

/-- Settles O4: the decoder's chain of tests fails to the end; for each of the sixteen family digits what is left of it, and of
the table, is a condition on the low nibble or on the low byte's two. -/
theorem unrecognizedWordsAreTheTabledOnes : Obligations.UnrecognizedWordsAreTheTabledOnes := by
  intro op
  rw [eq_formXyn op]
  generalize fieldFam op = a, fieldX op = b, fieldY op = c, fieldN op = d
  rw [decodeWord_formXyn]
  simp only [ite_some_eq_none, formXyn_div_4096, formXyn_mod_16, formXyn_mod_256, formXyn_eq_00E0, formXyn_eq_00EE, ne_eq]
  obtain ⟨k, rfl⟩ : ∃ k : Fin 16, a = BitVec.ofFin k := ⟨a.toFin, rfl⟩
  fin_cases k <;> simp
  -- Families 5, 8 and 9 leave a condition on the low nibble, E and F one on the low byte.
  · revert d; decide
  · revert d; decide
  · revert d; decide
  · revert c d; decide
  · revert c d; decide
end Sys2Proof
end

section
/-! What an instruction does, said once (spec 30_encoding.md R66, 60_exceptions.md R151, R152): it raises what the table of fault
conditions says and nothing else, or it completes with one effect. Every statement over all instructions is about `effect`. -/
namespace Sys2Proof.Machine

/-! ### The effect of a completed instruction -/

/-- CALL with room on the stack (R84). -/
def State.pushed (s : State) (target : Word) : State :=
  { s with stack := s.stack.setIfInBounds s.sp.val s.pc, sp := s.sp + 1, pc := target }

/-- RET with an entry in use (R86). -/
def State.popped (s : State) : State :=
  { s with sp := s.sp - 1, pc := s.stack[s.sp.val - 1]?.getD 0 + 2 }

/-- LD B inside the memory (R133). -/
def State.digitsStored (s : State) (x : Nibble) : State := (s.setMem (s.storeDigits (s.reg x))).advance

/-- LD [I],Vx inside the memory (R134). -/
def State.dumped (s : State) (x : Nibble) : State :=
  ((s.setMem (s.storeRegs (x.toNat + 1))).setIndex (s.indexAfterBulk x)).advance

/-- LD Vx,[I] inside the memory (R135): of a bulk load only the register file is kept. -/
def State.loaded (s : State) (x : Nibble) : State :=
  { s with v := (s.loadRegs (x.toNat + 1)).v, i := s.indexAfterBulk x, pc := s.pc + 2 }

/-- The state an instruction leaves when it raises nothing. -/
def effect (i : Instr) (s : State) : State :=
  match i with
  | .cls => (s.setFrame Frame.clear).advance
  | .ret => s.popped
  | .jp nnn => s.jump (addrOperand nnn)
  | .call nnn => s.pushed (addrOperand nnn)
  | .seImm x kk => s.skipIf (s.reg x == kk)
  | .sneImm x kk => s.skipIf (s.reg x != kk)
  | .seReg x y => s.skipIf (s.reg x == s.reg y)
  | .ldImm x kk => (s.setReg x kk).advance
  | .addImm x kk => (s.setReg x (s.reg x + kk)).advance
  | .ldReg x y => (s.setReg x (s.reg y)).advance
  | .or x y => (s.setResultAndFlag x (s.reg x ||| s.reg y) 0).advance
  | .and x y => (s.setResultAndFlag x (s.reg x &&& s.reg y) 0).advance
  | .xor x y => (s.setResultAndFlag x (s.reg x ^^^ s.reg y) 0).advance
  | .addReg x y => (s.setResultAndFlag x (s.reg x + s.reg y) (carryFlag (s.reg x) (s.reg y))).advance
  | .sub x y => (s.setResultAndFlag x (s.reg x - s.reg y) (notBorrowFlag (s.reg x) (s.reg y))).advance
  | .shr x y => (s.setResultAndFlag x (s.shiftSource x y >>> 1) (lowBitFlag (s.shiftSource x y))).advance
  | .subn x y => (s.setResultAndFlag x (s.reg y - s.reg x) (notBorrowFlag (s.reg y) (s.reg x))).advance
  | .shl x y => (s.setResultAndFlag x (s.shiftSource x y <<< 1) (highBitFlag (s.shiftSource x y))).advance
  | .sneReg x y => s.skipIf (s.reg x != s.reg y)
  | .ldI nnn => (s.setIndex (addrOperand nnn)).advance
  | .jpV0 nnn => s.jump (addrOperand nnn + wordOfByte (s.reg 0))
  | .rnd x kk => (s.setReg x (Config.rndDraw s.draws &&& kk)).countDraw.advance
  | .drw x y n => s.drawn x y n
  | .skp x => s.skipIf (s.key ((s.reg x).setWidth 4) == true)
  | .sknp x => s.skipIf (s.key ((s.reg x).setWidth 4) == false)
  | .ldVxDt x => (s.setReg x s.dt).advance
  | .ldVxK x => (s.startKeyWait x).advance
  | .ldDtVx x => (s.setDt (s.reg x)).advance
  | .ldStVx x => (s.setSt (s.reg x)).advance
  | .addI x => (s.setIndex (s.i + wordOfByte (s.reg x))).advance
  | .ldF x => (s.setIndex (glyphAddr (s.reg x))).advance
  | .ldB x => s.digitsStored x
  | .dump x => s.dumped x
  | .load x => s.loaded x

theorem loaded_eq (s : State) (x : Nibble) :
    s.loaded x = ((s.loadRegs (x.toNat + 1)).setIndex (s.indexAfterBulk x)).advance := by
  rw [loadRegs_frame]
  rfl

/-! ### The operations that can raise, by the condition that decides -/

theorem callTo_of_lt {s : State} {target : Word} (h : s.sp.val < 16) : callTo s target = .next (s.pushed target) := by
  have hsp : (⟨s.sp.val + 1, by omega⟩ : Fin 17) = s.sp + 1 := by
    apply Fin.ext
    rw [Fin.val_add_one_of_lt (i := s.sp) (Fin.lt_def.mpr h)]
  have hstack : s.stack.set s.sp.val s.pc h = s.stack.setIfInBounds s.sp.val s.pc :=
    Vector.ext fun j hj => by rw [Vector.getElem_set, Vector.getElem_setIfInBounds]
  rw [callTo, dif_pos h, hsp, hstack]
  rfl

theorem callTo_of_full {s : State} {target : Word} (h : s.sp.val = 16) :
    callTo s target = raise .stackOverflow s.pc s := by
  rw [callTo, dif_neg (by omega)]

theorem returnFromCall_of_ne {s : State} (h : s.sp.val ≠ 0) : returnFromCall s = .next s.popped := by
  have hsp : (⟨s.sp.val - 1, by omega⟩ : Fin 17) = s.sp - 1 := by
    apply Fin.ext
    rw [Fin.val_sub_one_of_ne_zero (fun h0 => h (by rw [h0]; rfl))]
  have hstack : s.stack[s.sp.val - 1] = s.stack[s.sp.val - 1]?.getD 0 := by
    rw [Vector.getElem?_eq_getElem (by omega), Option.getD_some]
  rw [returnFromCall, dif_neg h, hsp, hstack]
  rfl

theorem returnFromCall_of_empty {s : State} (h : s.sp.val = 0) : returnFromCall s = raise .stackUnderflow s.pc s := by
  rw [returnFromCall, dif_pos h]

theorem keyTest_of_le {s : State} {k : Byte} {p : Bool} (h : k.toNat ≤ 15) :
    keyTest s k p = .next (s.skipIf (s.key (k.setWidth 4) == p)) := by
  rw [keyTest, if_neg (by omega)]

theorem keyTest_of_gt {s : State} {k : Byte} {p : Bool} (h : k.toNat > 15) :
    keyTest s k p = raise .keyIndex (wordOfByte k) s := by
  rw [keyTest, if_pos h]

theorem execDrw_inside {s : State} {x y n : Nibble} (h : ¬ (1 ≤ n.toNat ∧ s.i.toNat + n.toNat - 1 > 0xFFF)) :
    execDrw x y n s = .next (s.drawn x y n) := by
  rw [execDrw]
  split
  · rfl
  · next hn =>
    have hn : n.toNat ≠ 0 := fun h0 => hn (BitVec.eq_of_toNat_eq h0)
    exact checkBounds_inside (by rw [State.dataSum]; omega)

theorem execDrw_outside {s : State} {x y n : Nibble} (hn : 1 ≤ n.toNat) (hlast : s.i.toNat + n.toNat - 1 > 0xFFF) :
    execDrw x y n s = raise .memoryBounds s.i s := by
  have hne : n ≠ 0 := by
    rintro rfl
    cases hn
  rw [execDrw, if_neg hne]
  exact checkBounds_outside (by rw [State.dataSum]; omega)

/-! ### An instruction raises exactly as tabled, or completes (R151, R152) -/

theorem exec_of_faultOf_some {i : Instr} {s : State} {c : Cause} {info : Word} (h : faultOf i s = some (c, info)) :
    exec i s = .next { s with fault := c, faultInfo := info } := by
  cases i with
  | call nnn =>
    obtain ⟨hs, hc⟩ := Option.ite_none_right_eq_some.mp h
    cases hc
    exact callTo_of_full hs
  | ret =>
    obtain ⟨hs, hc⟩ := Option.ite_none_right_eq_some.mp h
    cases hc
    exact returnFromCall_of_empty hs
  | drw x y n =>
    obtain ⟨⟨hn, hlast⟩, hc⟩ := Option.ite_none_right_eq_some.mp h
    cases hc
    exact execDrw_outside hn hlast
  | ldB | dump | load =>
    obtain ⟨hlast, hc⟩ := Option.ite_none_right_eq_some.mp h
    cases hc
    exact checkBounds_outside hlast
  | skp | sknp =>
    obtain ⟨hk, hc⟩ := Option.ite_none_right_eq_some.mp h
    cases hc
    exact keyTest_of_gt hk
  | _ => cases h

theorem exec_of_faultOf_none {i : Instr} {s : State} (h : faultOf i s = none) : exec i s = .next (effect i s) := by
  cases i with
  | call nnn => exact callTo_of_lt (by have := s.sp.isLt; have := ite_some_eq_none.mp h; omega)
  | ret => exact returnFromCall_of_ne (ite_some_eq_none.mp h).1
  | drw x y n => exact execDrw_inside (ite_some_eq_none.mp h).1
  | ldB x => exact checkBounds_inside (Nat.le_of_not_lt (ite_some_eq_none.mp h).1)
  | dump x => exact checkBounds_inside (Nat.le_of_not_lt (ite_some_eq_none.mp h).1)
  | load x =>
    rw [effect, loaded_eq]
    exact checkBounds_inside (Nat.le_of_not_lt (ite_some_eq_none.mp h).1)
  | skp x => exact keyTest_of_le (Nat.le_of_not_lt (ite_some_eq_none.mp h).1)
  | sknp x => exact keyTest_of_le (Nat.le_of_not_lt (ite_some_eq_none.mp h).1)
  | _ => rfl

/-- No row of the table is about code 0. -/
theorem faultOf_ne_noFault {i : Instr} {s : State} {c : Cause} {info : Word} (h : faultOf i s = some (c, info)) :
    c ≠ .noFault := by
  cases i with
  | call | ret | drw | ldB | dump | load | skp | sknp =>
    obtain ⟨-, hc⟩ := Option.ite_none_right_eq_some.mp h
    cases hc
    exact Cause.noConfusion
  | _ => cases h

/-- What an instruction can answer: a raise as tabled, or its effect. -/
theorem exec_cases {i : Instr} {s t : State} (h : exec i s = .next t) :
    (∃ c info, faultOf i s = some (c, info) ∧ t = { s with fault := c, faultInfo := info }) ∨
    (faultOf i s = none ∧ t = effect i s) := by
  rcases hf : faultOf i s with _ | ⟨c, info⟩
  · rw [exec_of_faultOf_none hf] at h
    injection h with h
    exact .inr ⟨rfl, h.symm⟩
  · rw [exec_of_faultOf_some hf] at h
    injection h with h
    exact .inl ⟨c, info, rfl, h.symm⟩

/-- What an instruction that raises nothing answers. -/
theorem eq_effect {i : Instr} {s t : State} (hf : faultOf i s = none) (h : exec i s = .next t) : t = effect i s := by
  rw [exec_of_faultOf_none hf] at h
  injection h with h
  exact h.symm

end Sys2Proof.Machine
end

section
/-! Who writes what (spec 10_state.md R10 to R19, 20_memory.md R44): the frame of every instruction's effect, piece by piece, and the
statements over all instructions that follow from it. A raise changes the latch alone, so it keeps every other piece. -/
namespace Sys2Proof.Machine

/-! ### The pieces no instruction's effect touches -/

@[simp] theorem effect_quirks (i : Instr) (s : State) : (effect i s).quirks = s.quirks := by cases i <;> rfl
@[simp] theorem effect_keys (i : Instr) (s : State) : (effect i s).keys = s.keys := by cases i <;> rfl
@[simp] theorem effect_soundOn (i : Instr) (s : State) : (effect i s).soundOn = s.soundOn := by cases i <;> rfl
@[simp] theorem effect_fault (i : Instr) (s : State) : (effect i s).fault = s.fault := by cases i <;> rfl
@[simp] theorem effect_faultInfo (i : Instr) (s : State) : (effect i s).faultInfo = s.faultInfo := by cases i <;> rfl

/-! ### The pieces that only the named instructions write -/

theorem effect_mem {i : Instr} (h : ∀ x, i ≠ .ldB x ∧ i ≠ .dump x) (s : State) : (effect i s).mem = s.mem := by
  cases i with
  | ldB x => exact absurd rfl (h x).1
  | dump x => exact absurd rfl (h x).2
  | _ => rfl

theorem effect_i {i : Instr} (hldI : ∀ nnn, i ≠ .ldI nnn)
    (h : ∀ x, i ≠ .addI x ∧ i ≠ .ldF x ∧ i ≠ .dump x ∧ i ≠ .load x) (s : State) : (effect i s).i = s.i := by
  cases i with
  | ldI nnn => exact absurd rfl (hldI nnn)
  | addI x => exact absurd rfl (h x).1
  | ldF x => exact absurd rfl (h x).2.1
  | dump x => exact absurd rfl (h x).2.2.1
  | load x => exact absurd rfl (h x).2.2.2
  | _ => rfl

/-- With the increment quirk off the bulk transfers leave `I` too (R134, R135). -/
theorem effect_i_of_no_increment {i : Instr} {s : State} (hq : s.quirks.incrementIndexQuirk = false)
    (hldI : ∀ nnn, i ≠ .ldI nnn) (h : ∀ x, i ≠ .addI x ∧ i ≠ .ldF x) : (effect i s).i = s.i := by
  have hbulk : ∀ x, s.indexAfterBulk x = s.i := fun x => by simp [State.indexAfterBulk, hq]
  cases i with
  | ldI nnn => exact absurd rfl (hldI nnn)
  | addI x => exact absurd rfl (h x).1
  | ldF x => exact absurd rfl (h x).2
  | dump x | load x => exact hbulk x
  | _ => rfl

theorem effect_sp {i : Instr} (hcall : ∀ nnn, i ≠ .call nnn) (hret : i ≠ .ret) (s : State) : (effect i s).sp = s.sp := by
  cases i with
  | call nnn => exact absurd rfl (hcall nnn)
  | ret => exact absurd rfl hret
  | _ => rfl

theorem effect_stack {i : Instr} (hcall : ∀ nnn, i ≠ .call nnn) (s : State) : (effect i s).stack = s.stack := by
  cases i with
  | call nnn => exact absurd rfl (hcall nnn)
  | _ => rfl

theorem effect_dt {i : Instr} (h : ∀ x, i ≠ .ldDtVx x) (s : State) : (effect i s).dt = s.dt := by
  cases i with
  | ldDtVx x => exact absurd rfl (h x)
  | _ => rfl

theorem effect_st {i : Instr} (h : ∀ x, i ≠ .ldStVx x) (s : State) : (effect i s).st = s.st := by
  cases i with
  | ldStVx x => exact absurd rfl (h x)
  | _ => rfl

theorem effect_display {i : Instr} (hcls : i ≠ .cls) (hdrw : ∀ x y n, i ≠ .drw x y n) (s : State) :
    (effect i s).fb = s.fb ∧ (effect i s).redraw = s.redraw := by
  cases i with
  | cls => exact absurd rfl hcls
  | drw x y n => exact absurd rfl (hdrw x y n)
  | _ => exact ⟨rfl, rfl⟩

theorem effect_wait {i : Instr} (h : ∀ x, i ≠ .ldVxK x) (s : State) :
    (effect i s).waiting = s.waiting ∧ (effect i s).waitReg = s.waitReg := by
  cases i with
  | ldVxK x => exact absurd rfl (h x)
  | _ => exact ⟨rfl, rfl⟩

theorem effect_draws {i : Instr} (h : ∀ x kk, i ≠ .rnd x kk) (s : State) : (effect i s).draws = s.draws := by
  cases i with
  | rnd x kk => exact absurd rfl (h x kk)
  | _ => rfl

/-- Settles O41: a raise keeps every piece; an effect keeps each but for its writers. -/
theorem everyStateHasOnlyItsWriters : Obligations.EveryStateHasOnlyItsWriters := by
  intro i s t h
  rcases exec_cases h with ⟨c, info, -, rfl⟩ | ⟨-, rfl⟩
  · exact ⟨rfl, rfl, rfl, fun _ _ => rfl, fun _ _ => rfl, fun _ _ _ => rfl, fun _ _ => rfl, fun _ => rfl, fun _ => rfl,
      fun _ _ => ⟨rfl, rfl⟩, fun _ => ⟨rfl, rfl⟩, fun _ => rfl⟩
  · exact ⟨effect_quirks i s, effect_keys i s, effect_soundOn i s, fun hm a => congrArg (·.read a) (effect_mem hm s),
      fun hldI hi => effect_i hldI hi s, effect_i_of_no_increment, fun hcall hret => effect_sp hcall hret s,
      fun hdt => effect_dt hdt s, fun hst => effect_st hst s, fun hcls hdrw => effect_display hcls hdrw s,
      fun hw => effect_wait hw s, fun hrnd => effect_draws hrnd s⟩

/-! ### Registers (R10, R11) -/

theorem loaded_reg (s : State) (x r : Nibble) :
    (s.loaded x).reg r = if r.toNat ≤ x.toNat then s.dataByte r.toNat else s.reg r := by
  have hx := x.isLt
  exact (loadRegs_reg s (by omega) r).trans (if_congr Nat.lt_succ_iff rfl rfl)

theorem drawn_reg (s : State) (x y n r : Nibble) :
    (s.drawn x y n).reg r = if r = 0xF then flagOf (s.blit x y n).hit else s.reg r := by
  simp [State.drawn]

theorem effect_reg {i : Instr} {r : Nibble} (h : writesReg i r = false) (s : State) : (effect i s).reg r = s.reg r := by
  cases i with
  | ldImm x | addImm x | ldReg x | rnd x | ldVxDt x =>
    have hr : r ≠ x := beq_eq_false_iff_ne.mp h
    simp [effect, hr]
  | or x | and x | xor x | addReg x | sub x | shr x | subn x | shl x =>
    obtain ⟨hx, hf⟩ : r ≠ x ∧ r ≠ 0xF := by simpa [writesReg] using h
    rw [effect, State.advance_reg, State.reg_setResultAndFlag, if_neg hf, if_neg hx]
  | drw x y n => rw [effect, drawn_reg, if_neg (beq_eq_false_iff_ne.mp h)]
  | load x => rw [effect, loaded_reg, if_neg (of_decide_eq_false h)]
  | _ => rfl

/-- Settles O25: a raise keeps all registers, and an effect those it is not listed for. -/
theorem onlyListedInstructionsWriteRegisters : Obligations.OnlyListedInstructionsWriteRegisters := by
  intro i s t r h hw
  rcases exec_cases h with ⟨c, info, -, rfl⟩ | ⟨-, rfl⟩
  · rfl
  · exact effect_reg hw s

/-! ### The program counter (R81) -/

theorem skipIf_pc_cases (s : State) (c : Bool) : (s.skipIf c).pc = s.pc + 2 ∨ (s.skipIf c).pc = s.pc + 4 := by
  cases c
  · exact .inl rfl
  · exact .inr rfl

/-- Settles O12: the six skips choose between `pc + 4` and `pc + 2`, the four transfers of control are left out, and every
other effect ends with `advance`. -/
theorem pcAdvancesByTwoOrSkips : Obligations.PcAdvancesByTwoOrSkips := by
  intro i s t h hf hjump hret
  rw [eq_effect hf h]
  cases i with
  | jp nnn => exact absurd rfl (hjump nnn).1
  | call nnn => exact absurd rfl (hjump nnn).2.1
  | jpV0 nnn => exact absurd rfl (hjump nnn).2.2
  | ret => exact absurd rfl hret
  | seImm x kk => exact (skipIf_pc_cases _ _).imp_right fun hpc => ⟨hpc, .inl ⟨x, kk, .inl rfl⟩⟩
  | sneImm x kk => exact (skipIf_pc_cases _ _).imp_right fun hpc => ⟨hpc, .inl ⟨x, kk, .inr rfl⟩⟩
  | seReg x y => exact (skipIf_pc_cases _ _).imp_right fun hpc => ⟨hpc, .inr (.inl ⟨x, y, .inl rfl⟩)⟩
  | sneReg x y => exact (skipIf_pc_cases _ _).imp_right fun hpc => ⟨hpc, .inr (.inl ⟨x, y, .inr rfl⟩)⟩
  | skp x => exact (skipIf_pc_cases _ _).imp_right fun hpc => ⟨hpc, .inr (.inr ⟨x, .inl rfl⟩)⟩
  | sknp x => exact (skipIf_pc_cases _ _).imp_right fun hpc => ⟨hpc, .inr (.inr ⟨x, .inr rfl⟩)⟩
  | _ => exact .inl rfl

end Sys2Proof.Machine
end

section
/-! The Step event (spec 40_execution_cycle_and_flow.md R80 to R82, 60_exceptions.md R151 to R153): what it runs, its three outcomes,
and when it raises. -/
namespace Sys2Proof.Machine

/-! ### What a Step runs (R80) -/

/-- Two bytes that the decoder calls unrecognized make a word that no row matches. -/
theorem decodeWord_eq_none_of_decode {hi lo : Byte} {op : Word} (h : decode [hi, lo] = .error (.unrecognized op)) :
    decodeWord (wordOfBytes hi lo) = none := by
  cases hd : decodeWord (wordOfBytes hi lo) with
  | none => rfl
  | some i =>
    rw [decode_eq_ok_iff.mpr ⟨hi, lo, rfl, hd⟩] at h
    cases h

/-- Settles O6: a blocked machine is left as it is; in any other the two bytes at `pc` are the word that the Step decodes. -/
theorem stepRunsTheDecodedInstruction : Obligations.StepRunsTheDecodedInstruction := by
  refine fun s => ⟨fun h => step_of_blocked (blocked_iff.mpr h), ?_⟩
  rintro hi lo hf hw hpc rfl rfl
  have hb : s.blocked = false := not_blocked_iff.mpr ⟨hf, hw, hpc⟩
  constructor
  · intro i hi _
    obtain ⟨_, _, heq, hd⟩ := decode_eq_ok_iff.mp hi
    cases heq
    exact step_of_decoded hb hd
  · intro herr
    exact step_of_unrecognized hb (decodeWord_eq_none_of_decode herr)

/-! ### Outcomes and faults (R82, R151, R152) -/

/-- Settles O9: each fault condition of the table is met by a raise that changes the latch alone, and without it the effect
leaves the latch. -/
theorem faultsAreRaisedExactlyAsTabled : Obligations.FaultsAreRaisedExactlyAsTabled := by
  refine ⟨⟨rfl, rfl, rfl, rfl, rfl, rfl⟩, fun i s => ⟨fun c info => exec_of_faultOf_some, fun h => ?_⟩,
    fun s => step_of_unrecognized⟩
  exact ⟨effect i s, exec_of_faultOf_none h, effect_fault i s, effect_faultInfo i s⟩

/-- Settles O7: the Step is blocked; or its word is unrecognized; or it runs an instruction, which completes or raises. -/
theorem stepHasExactlyOneOutcome : Obligations.StepHasExactlyOneOutcome := by
  intro s
  rcases Bool.eq_false_or_eq_true s.blocked with hb | hb
  · exact ⟨s, step_of_blocked hb, .inl ⟨hb, rfl⟩⟩
  rcases hd : decodeWord s.fetchWord with _ | i
  · exact ⟨_, step_of_unrecognized hb hd, .inr (.inr ⟨hb, _, _, Cause.noConfusion, rfl, .inl ⟨rfl, rfl, rfl⟩⟩)⟩
  have hstep := step_of_decoded hb hd
  rcases hf : faultOf i s with _ | ⟨c, info⟩
  · have hfault := (effect_fault i s).trans (not_blocked_iff.mp hb).1
    exact ⟨_, hstep.trans (exec_of_faultOf_none hf),
      .inr (.inl ⟨hb, hfault, i, rfl, hf, exec_of_faultOf_none hf⟩)⟩
  · exact ⟨_, hstep.trans (exec_of_faultOf_some hf),
      .inr (.inr ⟨hb, c, info, faultOf_ne_noFault hf, rfl, .inr ⟨i, rfl, hf⟩⟩)⟩

/-- Settles O8: the first clause is the raise; after reset nothing is listed in memory, and the word at 0x200 is 0000. -/
theorem unrecognizedWordRaisesIllegalOpcode : Obligations.UnrecognizedWordRaisesIllegalOpcode := by
  refine ⟨fun s hb hd => ⟨_, step_of_unrecognized hb hd, rfl, rfl, rfl, rfl⟩, ?_⟩
  exact step_of_unrecognized (by decide) (by decide)

/-! ### The word the host places (log entry 9) -/

theorem not_halted_iff {s : State} : s.halted = false ↔ s.pc.toNat < 4094 := by
  rw [← Bool.not_eq_true, halted_iff, Nat.not_le]

theorem unblocked_blocked (s : State) : s.unblocked.blocked = false := by
  rw [State.unblocked]
  split
  · rw [not_blocked_iff]
    refine ⟨rfl, rfl, ?_⟩
    cases hh : s.halted with
    | true => exact (by decide : Config.progBase.toNat < 4094)
    | false => exact not_halted_iff.mp hh
  · next hb => exact Bool.eq_false_iff.mpr hb

/-- A run of bytes written inside the memory, read at one of its offsets. -/
theorem Memory.read_writeBytes_offset (m : Memory) {base : Nat} {bs : List Byte} (hfit : base + bs.length ≤ 4096) {j : Nat}
    (hj : j < bs.length) : (m.writeBytes base bs).read (BitVec.ofNat 12 (base + j)) = bs[j] := by
  have ha : (BitVec.ofNat 12 (base + j)).toNat = base + j := by
    rw [BitVec.toNat_ofNat]
    omega
  rw [Memory.read_writeBytes m base bs hfit, dif_pos (by omega)]
  simp only [ha, Nat.add_sub_cancel_left]

/-- A word stored at a `pc` below 4094 is the word fetched there (R42). -/
theorem fetchWord_storeWordAtPc {s : State} (h : s.pc.toNat < 4094) (w : Word) : (s.storeWordAtPc w).fetchWord = w := by
  have hfit : s.pc.toNat + [highByte w, lowByte w].length ≤ 4096 := by
    rw [List.length_cons, List.length_singleton]
    omega
  have hhigh := Memory.read_writeBytes_offset s.mem hfit (j := 0) (by simp)
  have hlow := Memory.read_writeBytes_offset s.mem hfit (j := 1) (by simp)
  exact (congrArg₂ wordOfBytes hhigh hlow).trans (wordOfBytes_highByte_lowByte w)

theorem decodeTableWord_eq_some {nbits w : Nat} {i : Instr} (h : decodeTableWord nbits w = some i) :
    decodeWord (tableWord nbits w) = some i := by
  unfold decodeTableWord at h
  split at h
  · next j _ hd =>
    cases h
    obtain ⟨_, _, heq, hword⟩ := decode_eq_ok_iff.mp hd
    cases heq
    rwa [wordOfBytes_highByte_lowByte] at hword
  · cases h

/-- Settles O13: the placing unblocks the machine and stores the word where the Step fetches. -/
theorem placedWordIsFetchedAndRun : Obligations.PlacedWordIsFetchedAndRun := by
  intro s nbits w i h
  have hb := unblocked_blocked s
  refine step_of_decoded hb ?_
  rw [State.withFetchWord, fetchWord_storeWordAtPc (not_blocked_iff.mp hb).2.2]
  exact decodeTableWord_eq_some h

end Sys2Proof.Machine
end

section
/-! Control transfer (spec 40_execution_cycle_and_flow.md R83 to R91): jumps, skips and the call stack. -/
namespace Sys2Proof.Machine

/-- An instruction that only sets `pc`. -/
theorem onlyPc_jump (s : State) (w : Word) : s.OnlyPc (s.jump w) := ⟨rfl, fun _ => rfl⟩

theorem onlyPc_skipIf (s : State) (c : Bool) : s.OnlyPc (s.skipIf c) := ⟨rfl, fun _ => rfl⟩

/-! ### Jumps (R83, R91) -/

/-- The sum of a 12-bit address and a byte fits in 16 bits. -/
theorem addrOperand_add_wordOfByte_toNat (nnn : Addr) (b : Byte) :
    (addrOperand nnn + wordOfByte b).toNat = nnn.toNat + b.toNat := by
  have := nnn.isLt
  have := b.isLt
  rw [BitVec.toNat_add, addrOperand_toNat, wordOfByte_toNat]
  omega

/-- A jump answers a state in which only `pc` differs, halted exactly from 4094 up (R80). -/
theorem jump_answers {r : Result} {s : State} {w : Word} {n : Nat} (hr : r = .next (s.jump w)) (hw : w.toNat = n) :
    ∃ t, r = .next t ∧ s.OnlyPc t ∧ t.pc.toNat = n ∧ (t.halted = true ↔ 4094 ≤ n) := by
  subst hw
  exact ⟨s.jump w, hr, onlyPc_jump s w, rfl, halted_iff⟩

/-- Settles O14: each word decodes to its jump, whose target is the operand, or the operand plus `V[0]` in 16 bits. -/
theorem jumpsSetPc : Obligations.JumpsSetPc := fun nnn s =>
  ⟨⟨decodeWord_encodeWord (.jp nnn), jump_answers rfl (addrOperand_toNat nnn)⟩,
   ⟨decodeWord_encodeWord (.jpV0 nnn), jump_answers rfl (addrOperand_add_wordOfByte_toNat nnn (s.reg 0))⟩⟩

/-! ### Skips (R87 to R90) -/

/-- A skip answers a state in which only `pc` differs, by 4 exactly when its comparison holds. -/
theorem skipIf_answers {r : Result} {s : State} {c : Bool} {P : Prop} [Decidable P] (hr : r = .next (s.skipIf c))
    (hc : c = true ↔ P) : ∃ t, r = .next t ∧ s.OnlyPc t ∧ t.pc = if P then s.pc + 4 else s.pc + 2 :=
  ⟨s.skipIf c, hr, onlyPc_skipIf s c, by rw [State.skipIf_pc]; exact if_congr hc rfl rfl⟩

theorem beq_iff_toNat_eq (a b : Byte) : (a == b) = true ↔ a.toNat = b.toNat := by
  rw [beq_iff_eq, BitVec.toNat_inj]

theorem bne_iff_toNat_ne (a b : Byte) : (a != b) = true ↔ a.toNat ≠ b.toNat := by
  rw [bne_iff_ne, ne_eq, ne_eq, BitVec.toNat_inj]

/-- Settles O18: each word decodes to its skip, and each skip compares as numbers what it compares as bytes. -/
theorem skipsCompareAndAdvance : Obligations.SkipsCompareAndAdvance := fun x y kk _ =>
  ⟨⟨decodeWord_encodeWord (.seImm x kk), skipIf_answers rfl (beq_iff_toNat_eq _ _)⟩,
   ⟨decodeWord_encodeWord (.sneImm x kk), skipIf_answers rfl (bne_iff_toNat_ne _ _)⟩,
   ⟨decodeWord_encodeWord (.seReg x y), skipIf_answers rfl (beq_iff_toNat_eq _ _)⟩,
   ⟨decodeWord_encodeWord (.sneReg x y), skipIf_answers rfl (bne_iff_toNat_ne _ _)⟩⟩

/-! ### The call stack (R84 to R86) -/

theorem pushed_sp {s : State} (target : Word) (h : s.sp.val < 16) : (s.pushed target).sp.val = s.sp.val + 1 :=
  Fin.val_add_one_of_lt (i := s.sp) (Fin.lt_def.mpr h)

theorem pushed_stack (s : State) (target : Word) {j : Nat} (hj : j < 16) :
    (s.pushed target).stack[j] = if j = s.sp.val then s.pc else s.stack[j] := by
  simp only [State.pushed, Vector.getElem_setIfInBounds, eq_comm]

theorem popped_sp {s : State} (h : s.sp.val ≠ 0) : s.popped.sp.val = s.sp.val - 1 :=
  Fin.val_sub_one_of_ne_zero (fun h0 => h (congrArg Fin.val h0))

theorem popped_pc {s : State} {j : Nat} (hj : j < 16) (h : s.sp.val = j + 1) : s.popped.pc = s.stack[j] + 2 := by
  simp [State.popped, h, hj]

/-- Settles O15: with room the push is the effect; with 16 entries in use it is the raise. -/
theorem callPushesItsOwnAddress : Obligations.CallPushesItsOwnAddress := by
  refine fun nnn s => ⟨decodeWord_encodeWord (.call nnn), fun h => ?room, callTo_of_full⟩
  exact ⟨s.pushed (addrOperand nnn), callTo_of_lt h, rfl, fun _ => rfl, pushed_sp _ h, addrOperand_toNat nnn,
    fun j => pushed_stack s _ j.isLt⟩

/-- Settles O16: with an entry in use the pop is the effect; with none it is the raise. -/
theorem returnPopsAndAddsTwo : Obligations.ReturnPopsAndAddsTwo := by
  refine fun s => ⟨decodeWord_encodeWord .ret, fun j h => ?entry, returnFromCall_of_empty⟩
  have hne : s.sp.val ≠ 0 := by omega
  refine ⟨s.popped, returnFromCall_of_ne hne, rfl, fun _ => rfl, ?_, ?_⟩
  · rw [popped_sp hne, h, Nat.add_sub_cancel]
  · rw [popped_pc j.isLt h, BitVec.toNat_add]
    rfl

/-- Settles O17: the RET pops what the CALL pushed, its own address; and among the effects CALL's alone writes the stack. -/
theorem callThenReturnRoundTrip : Obligations.CallThenReturnRoundTrip := by
  constructor
  · intro nnn s t u hroom hcall hsp hentry
    have ht : t = s.pushed (addrOperand nnn) := Host.Outcome.next.inj (hcall.symm.trans (callTo_of_lt hroom))
    have husp : u.sp.val = s.sp.val + 1 := by rw [hsp, ht, pushed_sp _ hroom]
    have hne : u.sp.val ≠ 0 := by omega
    have hpopped : u.stack[s.sp.val] = s.pc := by
      rw [show u.stack[s.sp.val] = t.stack[s.sp.val] from hentry ⟨s.sp.val, hroom⟩ rfl]
      simp only [ht, pushed_stack, if_true]
    refine ⟨u.popped, returnFromCall_of_ne hne, ?_, Fin.ext ?_⟩
    · rw [popped_pc hroom husp, hpopped]
    · rw [popped_sp hne, husp, Nat.add_sub_cancel]
  · intro i s t h hcall
    rcases exec_cases h with ⟨c, info, -, rfl⟩ | ⟨-, rfl⟩
    · rfl
    · exact effect_stack hcall s

end Sys2Proof.Machine
end

section
/-! The invariant of every reachable state (spec 10_state.md R13, R26; 40_execution_cycle_and_flow.md R86; 60_exceptions.md R151, R152,
R162): it holds at reset, every event completes and keeps it, and so does every run. -/
namespace Sys2Proof.Machine

/-! ### An instruction's effect -/

/-- The canonical form of memory is kept (R44). -/
theorem effect_mem_wf {i : Instr} {s : State} (h : s.mem.wf) : (effect i s).mem.wf := by
  cases i with
  | ldB x => exact storeDigits_wf h _
  | dump x => exact storeRegs_wf h _
  | _ => exact h

theorem toNat_add_le (a : Word) (k : Nat) : (a + BitVec.ofNat 16 k).toNat ≤ a.toNat + k := by
  rw [BitVec.toNat_add, BitVec.toNat_ofNat]
  omega

/-- The largest value an instruction fetched below 4094 leaves in `pc` is that of JP V0 (R13). -/
theorem effect_pc_le {i : Instr} {s : State} (hpc : s.pc.toNat < 4094)
    (hstack : ∀ j : Nibble, j.toNat < s.sp.val → (s.stack[j.toNat]'j.isLt).toNat < 4094)
    (hf : faultOf i s = none) : (effect i s).pc.toNat ≤ 0x10FE := by
  have hadvance : (s.pc + 2).toNat ≤ 0x10FE := (toNat_add_le s.pc 2).trans (by omega)
  have hskip : ∀ c, (s.skipIf c).pc.toNat ≤ 0x10FE := fun c => by
    rcases skipIf_pc_cases s c with hpc' | hpc' <;> rw [hpc']
    · exact hadvance
    · exact (toNat_add_le s.pc 4).trans (by omega)
  cases i with
  | jp nnn | call nnn =>
    have := nnn.isLt
    exact (addrOperand_toNat nnn).trans_le (by omega)
  | jpV0 nnn =>
    have := nnn.isLt
    have := (s.reg 0).isLt
    exact (addrOperand_add_wordOfByte_toNat nnn (s.reg 0)).trans_le (by omega)
  | ret =>
    obtain ⟨j, hj⟩ := Nat.exists_eq_succ_of_ne_zero (ite_some_eq_none.mp hf).1
    have hj16 : j < 16 := by have := s.sp.isLt; omega
    have hentry : s.stack[j].toNat < 4094 := hstack (BitVec.ofNatLT j hj16) (by rw [hj]; exact Nat.lt_succ_self j)
    rw [effect, popped_pc hj16 hj]
    exact (toNat_add_le _ 2).trans (by omega)
  | seImm | sneImm | seReg | sneReg | skp | sknp => exact hskip _
  | _ => exact hadvance

/-- CALL pushes an address below 4094, and no other effect writes an entry (R86). -/
theorem effect_stackBound {i : Instr} {s : State} (hpc : s.pc.toNat < 4094)
    (hstack : ∀ j : Nibble, j.toNat < s.sp.val → (s.stack[j.toNat]'j.isLt).toNat < 4094)
    (hf : faultOf i s = none) :
    ∀ j : Nibble, j.toNat < (effect i s).sp.val → ((effect i s).stack[j.toNat]'j.isLt).toNat < 4094 := by
  intro j hj
  cases i with
  | call nnn =>
    have hroom : s.sp.val < 16 := by have := s.sp.isLt; have := ite_some_eq_none.mp hf; omega
    rw [effect, pushed_sp _ hroom] at hj
    simp only [effect, pushed_stack]
    split
    · exact hpc
    · exact hstack j (by omega)
  | ret =>
    rw [effect, popped_sp (ite_some_eq_none.mp hf).1] at hj
    exact hstack j (by omega)
  | _ => exact hstack j hj

/-- An instruction that a Step runs keeps the invariant when it completes. -/
theorem effect_inv {i : Instr} {s : State} (hb : s.blocked = false) (h : s.Inv) (hf : faultOf i s = none) :
    (effect i s).Inv := by
  obtain ⟨hfault, hwait, hpc⟩ := not_blocked_iff.mp hb
  have hfault' : (effect i s).fault = .noFault := (effect_fault i s).trans hfault
  exact
    { memory := effect_mem_wf h.memory
      pcBound := effect_pc_le hpc h.stackBound hf
      stackBound := effect_stackBound hpc h.stackBound hf
      waitNoFault := fun _ => hfault'
      noFaultInfo := fun _ => (effect_faultInfo i s).trans (h.noFaultInfo hfault)
      faultPc := fun hne => absurd hfault' hne }

/-- A raise in a Step keeps the invariant (R151). -/
theorem raised_inv {s : State} {c : Cause} {info : Word} (hb : s.blocked = false) (h : s.Inv) (hc : c ≠ .noFault) :
    State.Inv { s with fault := c, faultInfo := info } := by
  obtain ⟨-, hwait, hpc⟩ := not_blocked_iff.mp hb
  exact
    { memory := h.memory
      pcBound := h.pcBound
      stackBound := h.stackBound
      waitNoFault := fun hw => absurd (hwait.symm.trans hw) Bool.false_ne_true
      noFaultInfo := fun h0 => absurd h0 hc
      faultPc := fun _ => hpc }

/-- Settles O50: a Step leaves a blocked machine, raises, or runs an instruction, which raises or completes. -/
theorem stepKeepsTheInvariant : Obligations.StepKeepsTheInvariant := by
  intro s t h hstep
  rcases step_cases hstep with ⟨-, rfl⟩ | ⟨hb, i, -, hexec⟩ | ⟨hb, -, rfl⟩
  · exact h
  · rcases exec_cases hexec with ⟨c, info, hf, rfl⟩ | ⟨hf, rfl⟩
    · exact raised_inv hb h (faultOf_ne_noFault hf)
    · exact effect_inv hb h hf
  · exact raised_inv hb h Cause.noConfusion

/-! ### The other events -/

/-- A state with the values of a reset in all but memory, flags and draws, its memory canonical. -/
theorem inv_of_reset {m : Memory} (hm : m.wf) (q : Quirks) (d : Nat) :
    State.Inv { State.reset with mem := m, quirks := q, draws := d } :=
  { memory := hm
    pcBound := (by decide : State.reset.pc.toNat ≤ 0x10FE)
    stackBound := fun _ hj => absurd hj (Nat.not_lt_zero _)
    waitNoFault := fun _ => rfl
    noFaultInfo := fun _ => rfl
    faultPc := fun h => absurd rfl h }

/-- Settles O49: nothing is listed in memory, which is canonical. -/
theorem resetMeetsTheInvariant : Obligations.ResetMeetsTheInvariant :=
  inv_of_reset reset_mem_wf State.reset.quirks State.reset.draws

theorem loadProgram_inv (font : Font) (bytes : List Byte) {s : State} (h : s.Inv) : (loadProgram font bytes s).2.Inv := by
  rw [loadProgram]
  split
  · exact inv_of_reset (Memory.wf_writeBytes (resetMemory_wf font) _ _) _ _
  · exact h

theorem tick_inv {s : State} (h : s.Inv) : (tick s).Inv := { h with }

theorem ackRedraw_inv {s : State} (h : s.Inv) : (ackRedraw s).Inv := { h with }

theorem setKey_inv (k : Nibble) (pressed : Bool) {s : State} (h : s.Inv) : (s.setKey k pressed).Inv := { h with }

/-- The end of a key-wait leaves a machine that does not wait (R162). -/
theorem deliverKey_inv (k : Nibble) {s : State} (h : s.Inv) : (s.deliverKey k).Inv :=
  { h with waitNoFault := fun hw => absurd hw Bool.false_ne_true }

theorem setKeyEvent_inv (k : Nibble) (pressed : Bool) {s : State} (h : s.Inv) : (setKeyEvent k pressed s).Inv := by
  rw [setKeyEvent]
  split
  · exact deliverKey_inv k (setKey_inv k pressed h)
  · exact setKey_inv k pressed h

/-- Every event completes and keeps the invariant. -/
theorem applyEvent_keeps_inv (font : Font) (e : Event) {s : State} (h : s.Inv) :
    ∃ t, applyEvent font e s = .next t ∧ t.Inv := by
  cases e with
  | reset cfg => exact ⟨_, rfl, inv_of_reset (resetMemory_wf font) cfg s.draws⟩
  | loadProgram bytes => exact ⟨_, rfl, loadProgram_inv font bytes h⟩
  | step =>
    obtain ⟨t, ht, -⟩ := stepHasExactlyOneOutcome s
    exact ⟨t, ht, stepKeepsTheInvariant s t h ht⟩
  | tick => exact ⟨_, rfl, tick_inv h⟩
  | setKey k pressed => exact ⟨_, rfl, setKeyEvent_inv k pressed h⟩
  | ackRedraw => exact ⟨_, rfl, ackRedraw_inv h⟩

/-- Settles O51, by induction on the run. -/
theorem everyRunCompletesAndKeepsTheInvariant : Obligations.EveryRunCompletesAndKeepsTheInvariant := by
  intro font es
  induction es with
  | nil => exact fun s h => ⟨s, rfl, h⟩
  | cons e es ih =>
    intro s h
    obtain ⟨t, ht, hinv⟩ := applyEvent_keeps_inv font e h
    rw [runEvents_cons ht]
    exact ih t hinv

end Sys2Proof.Machine
end

section
/-! The events from outside (spec 60_exceptions.md R160 to R164, 70_reset_and_hazards.md R180 to R186): what each leaves, a fault that
only a reset clears, and the runs in which only the outside still changes anything. -/
namespace Sys2Proof.Machine

/-! ### Tick (R160) -/

theorem tick_soundOn_iff (s : State) : (tick s).soundOn = true ↔ (tick s).st ≠ 0 := bne_iff_ne

theorem ticks_count_down (font : Font) (n : Nat) (s : State) :
    ∃ t, runEvents font (List.replicate n .tick) s = .next t ∧
      t.dt.toNat = s.dt.toNat - n ∧ t.st.toNat = s.st.toNat - n := by
  induction n generalizing s with
  | zero => exact ⟨s, rfl, rfl, rfl⟩
  | succ n ih =>
    obtain ⟨t, ht, hdt, hst⟩ := ih (tick s)
    refine ⟨t, (runEvents_cons rfl).trans ht, ?_, ?_⟩
    · rw [hdt, show (tick s).dt.toNat = s.dt.toNat - 1 from countDown_toNat _]
      omega
    · rw [hst, show (tick s).st.toNat = s.st.toNat - 1 from countDown_toNat _]
      omega

/-- Settles O43: one Tick by its definition, `n` of them by induction. -/
theorem tickCountsTimersDown : Obligations.TickCountsTimersDown := fun font s =>
  ⟨⟨tick s, rfl, rfl, countDown_toNat _, countDown_toNat _, tick_soundOn_iff s⟩, fun n => ticks_count_down font n s⟩

/-! ### SetKey (R161, R162) -/

theorem setKeyEvent_of_delivery {k : Nibble} {pressed : Bool} {s : State}
    (h : pressed = true ∧ s.waiting = true ∧ s.fault = .noFault) :
    setKeyEvent k pressed s = (s.setKey k pressed).deliverKey k := by
  simp [setKeyEvent, h]

theorem setKeyEvent_of_no_delivery {k : Nibble} {pressed : Bool} {s : State}
    (h : ¬ (pressed = true ∧ s.waiting = true ∧ s.fault = .noFault)) :
    setKeyEvent k pressed s = s.setKey k pressed := by
  rw [setKeyEvent, if_neg (by simpa [and_assoc] using h)]

/-- With or without a delivery only the keys, the registers and the wait can differ, and the level is set. -/
theorem setKeyEvent_frame (k : Nibble) (pressed : Bool) (s : State) :
    setKeyEvent k pressed s =
      { s with keys := (s.setKey k pressed).keys, v := (setKeyEvent k pressed s).v,
               waiting := (setKeyEvent k pressed s).waiting } := by
  by_cases h : pressed = true ∧ s.waiting = true ∧ s.fault = .noFault
  · rw [setKeyEvent_of_delivery h]
    rfl
  · rw [setKeyEvent_of_no_delivery h]
    rfl

@[simp] theorem setKeyEvent_fault (k : Nibble) (p : Bool) (s : State) : (setKeyEvent k p s).fault = s.fault := by
  rw [setKeyEvent_frame]
@[simp] theorem setKeyEvent_faultInfo (k : Nibble) (p : Bool) (s : State) :
    (setKeyEvent k p s).faultInfo = s.faultInfo := by
  rw [setKeyEvent_frame]
@[simp] theorem setKeyEvent_redraw (k : Nibble) (p : Bool) (s : State) : (setKeyEvent k p s).redraw = s.redraw := by
  rw [setKeyEvent_frame]
@[simp] theorem setKeyEvent_pc (k : Nibble) (p : Bool) (s : State) : (setKeyEvent k p s).pc = s.pc := by
  rw [setKeyEvent_frame]
@[simp] theorem setKeyEvent_keys (k : Nibble) (p : Bool) (s : State) :
    (setKeyEvent k p s).keys = (s.setKey k p).keys := by
  rw [setKeyEvent_frame]

@[simp] theorem setKeyEvent_key (k j : Nibble) (p : Bool) (s : State) :
    (setKeyEvent k p s).key j = if j = k then p else s.key j := by
  rw [← State.key_setKey, State.key, State.key]
  simp only [setKeyEvent_keys]

/-- A press that ends a wait: the wait is over and the recorded register alone gets the code (R162). -/
theorem setKeyEvent_delivers {k : Nibble} {s : State} (hw : s.waiting = true) (hf : s.fault = .noFault) :
    (setKeyEvent k true s).waiting = false ∧
      ∀ r, ((setKeyEvent k true s).reg r).toNat = if r = s.waitReg then k.toNat else (s.reg r).toNat := by
  rw [setKeyEvent_of_delivery ⟨rfl, hw, hf⟩]
  refine ⟨rfl, fun r => ?_⟩
  rw [State.reg_deliverKey, apply_ite BitVec.toNat, BitVec.toNat_setWidth_of_le (by decide)]
  rfl

/-- Settles O44: both kinds of SetKey set the level; one delivers and ends the wait, the other leaves registers and wait. -/
theorem setKeySetsTheLevelAndEndsAWait : Obligations.SetKeySetsTheLevelAndEndsAWait := by
  refine fun font k pressed s => ⟨setKeyEvent k pressed s, rfl, ?frame, fun j => setKeyEvent_key k j pressed s, ?press, ?other⟩
  case frame => rw [setKeyEvent_keys]; exact setKeyEvent_frame k pressed s
  case press =>
    rintro ⟨rfl, hw, hf⟩
    exact setKeyEvent_delivers hw hf
  case other =>
    intro h
    rw [setKeyEvent_of_no_delivery h]
    exact ⟨rfl, fun r => rfl⟩

/-! ### AckRedraw (R163) -/

/-- Settles O45: the mark is the one field that the event writes. -/
theorem ackRedrawClearsOnlyTheMark : Obligations.AckRedrawClearsOnlyTheMark := fun _ s => ⟨ackRedraw s, rfl, rfl, rfl⟩

/-! ### Reset and LoadProgram (R180, R181) -/

/-- Settles O46: the memory is the font and zeros, every other piece the reset state's. -/
theorem resetLeavesTheTabledValues : Obligations.ResetLeavesTheTabledValues := by
  refine fun font cfg s => ⟨resetWith font cfg s, rfl, resetMemory_read font, fun r => ?_, rfl, rfl, rfl, fun j => ?_,
    rfl, rfl, rfl, Frame.get_clear, rfl, fun k => ?_, rfl, rfl, rfl, rfl, rfl, rfl⟩
  · exact Vector.getElem_replicate _
  · exact Vector.getElem_replicate _
  · exact Vector.getElem_replicate _

theorem reset_eq_resetWith : State.reset = resetWith defaultFont ⟨true, true⟩ State.reset := by
  decide

/-- Settles O47: the default font is what an unlisted address reads as, so that the Reset lists nothing. -/
theorem resetStateIsTheDefaultReset : Obligations.ResetStateIsTheDefaultReset := by
  refine ⟨reset_eq_resetWith, fun a ha => ?_, by decide⟩
  rw [reset_eq_resetWith]
  exact (resetMemory_read defaultFont a).trans (dif_neg (by omega))

theorem applyEvent_loadProgram {font : Font} {bytes : List Byte} {s t : State} {a : LoadAnswer}
    (h : loadProgram font bytes s = (a, t)) : applyEvent font (.loadProgram bytes) s = .next t := by
  rw [applyEvent, h]

theorem loadProgram_of_fits (font : Font) {bytes : List Byte} (s : State) (h : bytes.length ≤ 3584) :
    loadProgram font bytes s = (.success,
      { resetWith font s.quirks s with mem := (resetMemory font).writeBytes Config.progBase.toNat bytes }) :=
  if_pos (romWf_iff.mpr h)

theorem loadProgram_of_too_long (font : Font) {bytes : List Byte} (s : State) (h : 3584 < bytes.length) :
    loadProgram font bytes s = (.failure, s) :=
  if_neg (fun hw => Nat.not_le_of_lt h (romWf_iff.mp hw))

/-- Settles O48: a program that fits ends inside the memory, so its bytes read back and every other byte is the reset's. -/
theorem loadProgramCopiesOrFails : Obligations.LoadProgramCopiesOrFails := by
  refine fun font bytes s => ⟨fun h => ?fits, fun h => ?tooLong⟩
  case fits =>
    have hload := loadProgram_of_fits font s h
    have hfit : 0x200 + bytes.length ≤ 4096 := by omega
    refine ⟨_, hload, applyEvent_loadProgram hload, rfl, rfl, ?_, ?_⟩
    · exact fun j hj => Memory.read_writeBytes_offset _ hfit hj
    · intro a ha
      refine (Memory.read_writeBytes _ 0x200 bytes hfit a).trans ?_
      rw [dif_neg (by omega), resetMemory_read]
  case tooLong =>
    have hload := loadProgram_of_too_long font s h
    exact ⟨hload, applyEvent_loadProgram hload⟩

/-! ### The fault latch (R164) -/

/-- Settles O10: in a faulted machine the Step is blocked, and of the other events the resets alone write the latch. -/
theorem faultLatchIsLeftOnlyByReset : Obligations.FaultLatchIsLeftOnlyByReset := by
  intro font s hs
  have hstep : applyEvent font .step s = .next s := step_of_blocked (blocked_iff.mpr (.inl hs))
  refine ⟨fun e t h => ?_, fun cfg => ⟨_, rfl, rfl, rfl⟩, hstep, ⟨tick s, rfl, countDown_toNat _, countDown_toNat _⟩,
    fun k p => ⟨setKeyEvent k p s, rfl, by rw [setKeyEvent_key, if_pos rfl]⟩, ⟨ackRedraw s, rfl, rfl⟩⟩
  cases e with
  | reset cfg =>
    cases h
    exact .inr ⟨rfl, rfl, .inl ⟨cfg, rfl⟩⟩
  | loadProgram bytes =>
    cases h
    by_cases hlen : bytes.length ≤ 3584
    · rw [loadProgram_of_fits font s hlen]
      exact .inr ⟨rfl, rfl, .inr ⟨bytes, rfl, hlen⟩⟩
    · rw [loadProgram_of_too_long font s (by omega)]
      exact .inl ⟨rfl, rfl⟩
  | step =>
    rw [hstep] at h
    cases h
    exact .inl ⟨rfl, rfl⟩
  | tick | ackRedraw =>
    cases h
    exact .inl ⟨rfl, rfl⟩
  | setKey k p =>
    cases h
    exact .inl ⟨setKeyEvent_fault k p s, setKeyEvent_faultInfo k p s⟩

/-! ### Runs in which only the outside changes anything -/

/-- Only the timers (down), the sound signal, the keys and the redraw mark (off) differ. -/
def State.OnlyOutside (s t : State) : Prop :=
  t = { s with dt := t.dt, st := t.st, soundOn := t.soundOn, keys := t.keys, redraw := t.redraw } ∧
  t.dt.toNat ≤ s.dt.toNat ∧ t.st.toNat ≤ s.st.toNat ∧ (t.redraw = true → s.redraw = true)

/-- An event that neither resets the machine nor ends a key-wait of it. -/
def Event.Quiet (s : State) : Event → Prop
  | .reset _ | .loadProgram _ => False
  | .setKey _ pressed => ¬ (pressed = true ∧ s.waiting = true ∧ s.fault = .noFault)
  | .step | .tick | .ackRedraw => True

theorem State.OnlyOutside.refl (s : State) : s.OnlyOutside s := ⟨rfl, Nat.le_refl _, Nat.le_refl _, id⟩

theorem State.OnlyOutside.trans {s t u : State} (hst : s.OnlyOutside t) (htu : t.OnlyOutside u) : s.OnlyOutside u := by
  obtain ⟨ht, hdt, hst, hr⟩ := hst
  obtain ⟨hu, hdt', hst', hr'⟩ := htu
  refine ⟨?_, hdt'.trans hdt, hst'.trans hst, hr ∘ hr'⟩
  rw [hu, ht]

theorem State.OnlyOutside.waiting {s t : State} (h : s.OnlyOutside t) : t.waiting = s.waiting := by rw [h.1]
theorem State.OnlyOutside.waitReg {s t : State} (h : s.OnlyOutside t) : t.waitReg = s.waitReg := by rw [h.1]
theorem State.OnlyOutside.fault {s t : State} (h : s.OnlyOutside t) : t.fault = s.fault := by rw [h.1]
theorem State.OnlyOutside.pc {s t : State} (h : s.OnlyOutside t) : t.pc = s.pc := by rw [h.1]
theorem State.OnlyOutside.reg {s t : State} (h : s.OnlyOutside t) (r : Nibble) : t.reg r = s.reg r := by
  rw [h.1]
  rfl

theorem State.OnlyOutside.blocked {s t : State} (h : s.OnlyOutside t) : t.blocked = s.blocked := by
  rw [State.blocked, State.halted, h.waiting, h.fault, h.pc]
  rfl

theorem State.OnlyOutside.runEnded {s t : State} (h : s.OnlyOutside t) : t.runEnded = s.runEnded := by
  rw [State.runEnded, State.halted, h.waiting, h.fault, h.pc]
  rfl

theorem State.OnlyOutside.quiet {s t : State} (h : s.OnlyOutside t) {e : Event} (he : e.Quiet s) : e.Quiet t := by
  cases e with
  | setKey k pressed => rwa [Event.Quiet, h.waiting, h.fault]
  | _ => exact he

/-- A quiet event of a blocked machine reaches the outside alone. -/
theorem applyEvent_quiet (font : Font) {e : Event} {s : State} (hb : s.blocked = true) (he : e.Quiet s) :
    ∃ t, applyEvent font e s = .next t ∧ s.OnlyOutside t := by
  cases e with
  | reset | loadProgram => exact he.elim
  | step => exact ⟨s, step_of_blocked hb, .refl s⟩
  | tick =>
    refine ⟨tick s, rfl, rfl, ?_, ?_, id⟩
    · exact (countDown_toNat s.dt).trans_le (Nat.sub_le _ _)
    · exact (countDown_toNat s.st).trans_le (Nat.sub_le _ _)
  | setKey k pressed =>
    exact ⟨s.setKey k pressed, congrArg Host.Outcome.next (setKeyEvent_of_no_delivery he), rfl, Nat.le_refl _, Nat.le_refl _, id⟩
  | ackRedraw => exact ⟨ackRedraw s, rfl, rfl, Nat.le_refl _, Nat.le_refl _, fun h => absurd h Bool.false_ne_true⟩

/-- So does every run of them, by induction on the run. -/
theorem runEvents_quiet (font : Font) {es : List Event} {s : State} (hb : s.blocked = true) (hes : ∀ e ∈ es, e.Quiet s) :
    ∃ t, runEvents font es s = .next t ∧ s.OnlyOutside t := by
  induction es generalizing s with
  | nil => exact ⟨s, rfl, .refl s⟩
  | cons e es ih =>
    obtain ⟨he, hes⟩ := List.forall_mem_cons.mp hes
    obtain ⟨t, ht, hst⟩ := applyEvent_quiet font hb he
    obtain ⟨u, hu, htu⟩ := ih (hst.blocked.trans hb) fun e' he' => hst.quiet (hes e' he')
    exact ⟨u, (runEvents_cons ht).trans hu, hst.trans htu⟩

/-! ### The end of a run (R186) -/

theorem runEnded_iff {s : State} :
    s.runEnded = true ↔ s.fault ≠ .noFault ∨ (4094 ≤ s.pc.toNat ∧ s.waiting = false) := by
  simp [State.runEnded, halted_iff]

theorem endedWell_iff {s : State} : s.endedWell = true ↔ s.runEnded = true ∧ s.fault = .noFault := by
  simp [State.endedWell]

/-- An ended machine does nothing in a Step, and it is faulted or does not wait. -/
theorem blocked_of_runEnded {s : State} (h : s.runEnded = true) : s.blocked = true :=
  blocked_iff.mpr ((runEnded_iff.mp h).imp_right fun hp => .inr hp.1)

theorem quiet_of_runEnded {s : State} (h : s.runEnded = true) {e : Event}
    (he : (∀ cfg, e ≠ .reset cfg) ∧ ∀ bytes, e ≠ .loadProgram bytes) : e.Quiet s := by
  cases e with
  | reset cfg => exact he.1 cfg rfl
  | loadProgram bytes => exact he.2 bytes rfl
  | setKey k pressed =>
    rintro ⟨-, hw, hf⟩
    rcases runEnded_iff.mp h with hne | ⟨-, hw'⟩
    · exact hne hf
    · exact Bool.false_ne_true (hw'.symm.trans hw)
  | step | tick | ackRedraw => trivial

/-- Settles O11: of an ended machine every event but a reset or a load is quiet. -/
theorem endedRunIsFinal : Obligations.EndedRunIsFinal := by
  refine fun font s => ⟨runEnded_iff, endedWell_iff, fun es hend hes => ?_⟩
  obtain ⟨t, ht, hst⟩ := runEvents_quiet font (blocked_of_runEnded hend) fun e he => quiet_of_runEnded hend (hes e he)
  exact ⟨t, ht, hst.runEnded.trans hend, hst⟩

/-! ### The key-wait (R126, R127) -/

theorem blocked_of_waiting {s : State} (h : s.waiting = true) : s.blocked = true := blocked_iff.mpr (.inr (.inl h))

theorem steps_of_blocked (font : Font) {s : State} (h : s.blocked = true) (n : Nat) :
    runEvents font (List.replicate n .step) s = .next s := by
  induction n with
  | zero => rfl
  | succ n ih => exact (runEvents_cons (e := .step) (step_of_blocked h)).trans ih

theorem quiet_of_no_press {s : State} {e : Event} (h : e = .step ∨ e = .tick ∨ e = .ackRedraw ∨ ∃ k, e = .setKey k false) :
    e.Quiet s := by
  rcases h with rfl | rfl | rfl | ⟨k, rfl⟩
  · trivial
  · trivial
  · trivial
  · exact fun hp => Bool.false_ne_true hp.1

/-- Settles O29: while no press arrives every event is quiet, and the press that then arrives finds the wait as it was. -/
theorem keyWaitHoldsUntilAPress : Obligations.KeyWaitHoldsUntilAPress := by
  intro font s hw
  have hb := blocked_of_waiting hw
  refine ⟨steps_of_blocked font hb, ⟨tick s, rfl, rfl⟩, fun k => ?release, fun es hes => ?run⟩
  case release =>
    have hno : ¬ (false = true ∧ s.waiting = true ∧ s.fault = .noFault) := fun h => Bool.false_ne_true h.1
    exact ⟨s.setKey k false, congrArg Host.Outcome.next (setKeyEvent_of_no_delivery hno), rfl, fun j => State.key_setKey s k j false⟩
  case run =>
    obtain ⟨t, ht, hst⟩ := runEvents_quiet font hb fun e he => quiet_of_no_press (hes e he)
    refine ⟨t, ht, hst.waiting.trans hw, hst.pc, hst.reg, hst.1, fun k hf => ?_⟩
    obtain ⟨hdone, hreg⟩ := setKeyEvent_delivers (k := k) (hst.waiting.trans hw) (hst.fault.trans hf)
    refine ⟨setKeyEvent k true t, rfl, hdone, fun r => ?_⟩
    rw [hreg r, hst.waitReg, hst.reg r]

/-- An event that ends a wait is a press, a reset or a load. -/
theorem event_of_wait_ended {font : Font} {e : Event} {s t : State} (hw : s.waiting = true)
    (h : applyEvent font e s = .next t) (ht : t.waiting = false) :
    (∃ k, e = .setKey k true) ∨ (∃ cfg, e = .reset cfg) ∨ ∃ bytes, e = .loadProgram bytes := by
  have hquiet : ¬ e.Quiet s := fun he => by
    obtain ⟨t', h', hst⟩ := applyEvent_quiet font (blocked_of_waiting hw) he
    rw [h] at h'
    cases h'
    exact Bool.false_ne_true (ht.symm.trans (hst.waiting.trans hw))
  cases e with
  | reset cfg => exact .inr (.inl ⟨cfg, rfl⟩)
  | loadProgram bytes => exact .inr (.inr ⟨bytes, rfl⟩)
  | setKey k pressed =>
    obtain ⟨rfl, -⟩ := not_not.mp hquiet
    exact .inl ⟨k, rfl⟩
  | step | tick | ackRedraw => exact absurd trivial hquiet

/-- Settles O28: the instruction starts the wait and advances; what then ends it is a press, a reset or a load. -/
theorem keyWaitBeginsAndEnds : Obligations.KeyWaitBeginsAndEnds := by
  intro x s
  have hw : (s.startKeyWait x).advance.waiting = true := rfl
  refine ⟨decodeWord_encodeWord (.ldVxK x), (s.startKeyWait x).advance, rfl, rfl, fun _ => rfl, rfl,
    step_of_blocked (blocked_of_waiting hw), fun font => ⟨fun k hf => ?_, fun e u => event_of_wait_ended hw⟩⟩
  obtain ⟨hdone, hreg⟩ := setKeyEvent_delivers (k := k) hw hf
  refine ⟨setKeyEvent k true (s.startKeyWait x).advance, rfl, hdone, setKeyEvent_pc _ _ _, ?_, fun r hr => ?_⟩
  · exact (hreg x).trans (if_pos rfl)
  · exact BitVec.eq_of_toNat_eq ((hreg r).trans (if_neg hr))

end Sys2Proof.Machine
end

section
/-! Memories in canonical form that read alike are equal (spec 20_memory.md R40). -/
namespace Sys2Proof.Machine

theorem Memory.mem_of_find? {m : Memory} {a : Nat} {b : Byte} (h : Memory.find? m a = some b) : (a, b) ∈ m := by
  induction m with
  | nil => cases h
  | cons c m ih =>
    rw [Memory.find?] at h
    split at h
    · next hc =>
      cases h
      exact hc ▸ List.mem_cons_self
    · exact List.mem_cons_of_mem c (ih h)

/-- In a list with rising addresses a listed cell is the one that is found. -/
theorem Memory.find?_of_mem {m : Memory} (hm : m.Pairwise (fun c d => c.1 < d.1)) {c : Host.Cell} (hc : c ∈ m) :
    Memory.find? m c.1 = some c.2 := by
  induction m with
  | nil => cases hc
  | cons d m ih =>
    obtain ⟨hd, hm⟩ := List.pairwise_cons.mp hm
    rw [Memory.find?]
    rcases List.mem_cons.mp hc with rfl | hc
    · exact if_pos rfl
    · rw [if_neg (Nat.ne_of_lt (hd c hc)), ih hm hc]

/-- In canonical form a cell is listed exactly when its address exists and reads as its byte, which is not the reset's. -/
theorem Memory.mem_iff_read {m : Memory} (hm : m.wf) {a : Nat} {b : Byte} :
    (a, b) ∈ m ↔ a < 4096 ∧ b ≠ resetByte a ∧ m.read (BitVec.ofNat 12 a) = b := by
  have hread : a < 4096 → m.read (BitVec.ofNat 12 a) = (Memory.find? m a).getD (resetByte a) := fun ha => by
    rw [Memory.read, BitVec.toNat_ofNat, Nat.mod_eq_of_lt ha]
  constructor
  · intro h
    obtain ⟨ha, hb⟩ := hm.2 _ h
    exact ⟨ha, hb, by rw [hread ha, Memory.find?_of_mem hm.1 h, Option.getD_some]⟩
  · rintro ⟨ha, hb, hab⟩
    rw [hread ha] at hab
    cases hf : Memory.find? m a with
    | none =>
      rw [hf] at hab
      exact absurd hab.symm hb
    | some b' =>
      rw [hf] at hab
      exact Memory.mem_of_find? (hf.trans (congrArg some hab))

/-- Settles O53: the cells listed are determined by what is read, and their order by the addresses, which rise. -/
theorem equalReadsAreEqualMemories : Obligations.EqualReadsAreEqualMemories := by
  intro m n hm hn hread
  have hanti : Std.Antisymm (fun c d : Host.Cell => c.1 < d.1) := ⟨fun _ _ h h' => absurd h (Nat.lt_asymm h')⟩
  have hirrefl : Std.Irrefl (fun c d : Host.Cell => c.1 < d.1) := ⟨fun c => Nat.lt_irrefl c.1⟩
  refine List.Pairwise.eq_of_mem_iff hm.1 hn.1 fun ⟨a, b⟩ => ?_
  rw [Memory.mem_iff_read hm, Memory.mem_iff_read hn, hread]

end Sys2Proof.Machine
end

section
/-! No Step reads an output (spec 10_state.md R15, R17 to R20, R23). A state's inputs are the state with the outputs blanked; states
with equal inputs differ in outputs alone, and a Step takes them to states with equal inputs. -/
namespace Sys2Proof.Machine

/-- The state with the redraw mark, the sound signal, ST, the info word and the recorded key-wait register blanked. -/
def State.inputs (s : State) : State :=
  { s with redraw := false, soundOn := false, st := 0, faultInfo := 0, waitReg := 0 }

/-- Two states differ in outputs alone when their inputs are equal. -/
theorem differ_in_outputs_iff {s s' : State} :
    s' = { s with redraw := s'.redraw, soundOn := s'.soundOn, st := s'.st, faultInfo := s'.faultInfo,
                  waitReg := s'.waitReg } ↔ s'.inputs = s.inputs := by
  constructor
  · intro h
    rw [h]
    rfl
  · intro h
    cases s
    cases s'
    simp_all [State.inputs]

@[simp] theorem inputs_blocked (s : State) : s.inputs.blocked = s.blocked := rfl
@[simp] theorem inputs_fetchWord (s : State) : s.inputs.fetchWord = s.fetchWord := rfl

theorem inputs_loadRegs (s : State) (k : Nat) : (s.inputs.loadRegs k).v = (s.loadRegs k).v := by
  induction k with
  | zero => rfl
  | succ k ih =>
    rw [State.loadRegs, State.loadRegs, State.setReg_v, State.setReg_v, ih]
    rfl

theorem inputs_storeRegs (s : State) (k : Nat) : s.inputs.storeRegs k = s.storeRegs k := by
  induction k with
  | zero => rfl
  | succ k ih =>
    rw [State.storeRegs, State.storeRegs, ih]
    rfl

theorem inputs_faultOf (i : Instr) (s : State) : faultOf i s.inputs = faultOf i s := by cases i <;> rfl

/-- An effect reads no output: the bulk transfers by their recursion, the others as they are written. -/
theorem inputs_effect (i : Instr) (s : State) : (effect i s.inputs).inputs = (effect i s).inputs := by
  cases i with
  | dump x =>
    simp only [effect, State.dumped, inputs_storeRegs]
    rfl
  | load x =>
    simp only [effect, State.loaded, inputs_loadRegs]
    rfl
  | _ => rfl

/-- The two Steps are blocked alike, decode the same word and raise alike; the info word of a raise is an output. -/
theorem step_of_equal_inputs {s s' : State} (h : s'.inputs = s.inputs) :
    ∃ t t', step s = .next t ∧ step s' = .next t' ∧ t'.inputs = t.inputs := by
  have hb' : s'.blocked = s.blocked := by rw [← inputs_blocked, h, inputs_blocked]
  have hw' : s'.fetchWord = s.fetchWord := by rw [← inputs_fetchWord, h, inputs_fetchWord]
  rcases Bool.eq_false_or_eq_true s.blocked with hb | hb
  · exact ⟨s, s', step_of_blocked hb, step_of_blocked (hb'.trans hb), h⟩
  have hraise : ∀ c info info', State.inputs { s' with fault := c, faultInfo := info' } =
      State.inputs { s with fault := c, faultInfo := info } :=
    fun c info info' => congrArg (fun u : State => { u with fault := c }) h
  rcases hd : decodeWord s.fetchWord with _ | i
  · exact ⟨_, _, step_of_unrecognized hb hd, step_of_unrecognized (hb'.trans hb) (hw' ▸ hd), hraise _ _ _⟩
  have hstep := step_of_decoded hb hd
  have hstep' : step s' = exec i s' := step_of_decoded (hb'.trans hb) (hw' ▸ hd)
  have hf' : faultOf i s' = faultOf i s := by rw [← inputs_faultOf, h, inputs_faultOf]
  rcases hf : faultOf i s with _ | ⟨c, info⟩
  · refine ⟨_, _, hstep.trans (exec_of_faultOf_none hf), hstep'.trans (exec_of_faultOf_none (hf'.trans hf)), ?_⟩
    rw [← inputs_effect, h, inputs_effect]
  · exact ⟨_, _, hstep.trans (exec_of_faultOf_some hf), hstep'.trans (exec_of_faultOf_some (hf'.trans hf)), hraise _ _ _⟩

/-- Settles O42: to differ in outputs alone is to have equal inputs, which a Step keeps equal. -/
theorem stepReadsNoOutput : Obligations.StepReadsNoOutput := by
  intro s s' h
  obtain ⟨t, t', ht, ht', hio⟩ := step_of_equal_inputs (differ_in_outputs_iff.mp h)
  exact ⟨t, t', ht, ht', differ_in_outputs_iff.mpr hio⟩

end Sys2Proof.Machine
end

section
/-! Display (spec 44_display.md R140 to R146): what a draw does to the pixels and to VF, and the redraw mark. -/
namespace Sys2Proof.Machine

/-! ### One draw (R141 to R144) -/

/-- A draw inverts exactly the pixels on which a 1 bit of the sprite lands. -/
theorem drawn_pixel (s : State) (x y n : Nibble) (py : BitVec 5) (px : BitVec 6) [Decidable (s.SpriteBit x y n py px)] :
    (s.drawn x y n).pixel py px = (s.pixel py px ^^ decide (s.SpriteBit x y n py px)) := by
  refine (State.get_blit s x y n py px).trans (congrArg _ ?_)
  rw [decide_eq_decide, spriteOn_iff]

/-- VF is 1 exactly when a 1 bit of the sprite lands on a pixel that was on. -/
theorem drawn_flag_eq_one (s : State) (x y n : Nibble) :
    (s.drawn x y n).reg 0xF = 1 ↔ ∃ py px, s.SpriteBit x y n py px ∧ s.pixel py px = true := by
  rw [drawn_reg, if_pos rfl, flagOf_eq_one, State.hit_blit, decide_eq_true_eq]
  simp only [spriteOn_iff]

theorem drawn_flag_cases (s : State) (x y n : Nibble) : (s.drawn x y n).reg 0xF = 0 ∨ (s.drawn x y n).reg 0xF = 1 := by
  rw [drawn_reg, if_pos rfl]
  cases (s.blit x y n).hit
  · exact .inl rfl
  · exact .inr rfl

theorem drawn_pixel_changes_iff (s : State) (x y n : Nibble) (py : BitVec 5) (px : BitVec 6) :
    (s.drawn x y n).pixel py px ≠ s.pixel py px ↔ s.SpriteBit x y n py px := by
  classical
  rw [drawn_pixel]
  by_cases hbit : s.SpriteBit x y n py px <;> simp [hbit]

theorem drawn_pixel_goes_off_iff (s : State) (x y n : Nibble) (py : BitVec 5) (px : BitVec 6) :
    s.pixel py px = true ∧ (s.drawn x y n).pixel py px = false ↔ s.SpriteBit x y n py px ∧ s.pixel py px = true := by
  classical
  rw [drawn_pixel]
  by_cases hbit : s.SpriteBit x y n py px <;> simp [hbit]

/-- Settles O38: inside the memory, or with no rows, the draw is the effect; else it is the raise. -/
theorem drawInvertsSpritePixels : Obligations.DrawInvertsSpritePixels := by
  refine fun x y n s => ⟨decodeWord_encodeWord (.drw x y n), fun h => ?inside, fun hn hlast => ?outside⟩
  case inside =>
    have hfit : ¬ (1 ≤ n.toNat ∧ s.i.toNat + n.toNat - 1 > 0xFFF) := by
      rcases h with rfl | h
      · exact fun h => absurd h.1 (by decide)
      · omega
    refine ⟨s.drawn x y n, execDrw_inside hfit, rfl, fun _ => rfl, rfl, fun r hr => ?_, fun k hk => ?_,
      drawn_pixel_changes_iff s x y n, drawn_flag_cases s x y n, ?_⟩
    · rw [drawn_reg, if_neg hr]
    · exact dataAddr_toNat (by omega)
    · simp only [drawn_flag_eq_one, drawn_pixel_goes_off_iff]
  case outside =>
    have hne : n.toNat ≠ 0 := fun h0 => hn (BitVec.eq_of_toNat_eq h0)
    exact execDrw_outside (Nat.one_le_iff_ne_zero.mpr hne) hlast

/-! ### Two draws (R145) -/

/-- A draw from registers other than VF leaves its sprite where it is: it writes neither `I`, nor memory, nor its coordinates. -/
theorem drawn_spriteBit {s : State} {x y : Nibble} (hx : x ≠ 0xF) (hy : y ≠ 0xF) (n : Nibble) (py : BitVec 5)
    (px : BitVec 6) : (s.drawn x y n).SpriteBit x y n py px ↔ s.SpriteBit x y n py px := by
  have hx' : (s.drawn x y n).reg x = s.reg x := by rw [drawn_reg, if_neg hx]
  have hy' : (s.drawn x y n).reg y = s.reg y := by rw [drawn_reg, if_neg hy]
  rw [State.SpriteBit, hx', hy']
  rfl

/-- Two inversions of the same pixels are none. -/
theorem drawn_drawn_fb {s : State} {x y : Nibble} (hx : x ≠ 0xF) (hy : y ≠ 0xF) (n : Nibble) :
    ((s.drawn x y n).drawn x y n).fb = s.fb := by
  classical
  refine Frame.ext_get fun py px => ?_
  calc ((s.drawn x y n).drawn x y n).pixel py px
      = ((s.pixel py px ^^ decide (s.SpriteBit x y n py px)) ^^ decide (s.SpriteBit x y n py px)) := by
        rw [drawn_pixel, drawn_pixel, decide_eq_decide.mpr (drawn_spriteBit hx hy n py px)]
    _ = s.pixel py px := by rw [Bool.xor_assoc, Bool.xor_self, Bool.xor_false]

theorem drawn_drawn_flag_eq_one {s : State} {x y : Nibble} (hx : x ≠ 0xF) (hy : y ≠ 0xF) (n : Nibble) :
    ((s.drawn x y n).drawn x y n).reg 0xF = 1 ↔ ∃ py px, s.SpriteBit x y n py px ∧ s.pixel py px = false := by
  classical
  rw [drawn_flag_eq_one]
  refine exists_congr fun py => exists_congr fun px => ?_
  rw [drawn_spriteBit hx hy, drawn_pixel]
  by_cases hbit : s.SpriteBit x y n py px <;> simp [hbit]

/-- The state after CLS (R140). -/
theorem eq_of_exec_cls {s t : State} (h : exec .cls s = .next t) : t = (s.setFrame Frame.clear).advance :=
  eq_effect (i := .cls) rfl h

theorem pixel_of_exec_cls {s t : State} (h : exec .cls s = .next t) (py : BitVec 5) (px : BitVec 6) :
    t.pixel py px = false := by
  rw [eq_of_exec_cls h, State.advance_pixel, State.pixel_setFrame, Frame.get_clear]

/-- On a clear screen a draw leaves exactly its sprite, and meets no pixel that is on. -/
theorem drawn_on_clear {s : State} (h : ∀ py px, s.pixel py px = false) (x y n : Nibble) :
    (∀ py px, (s.drawn x y n).pixel py px = true ↔ s.SpriteBit x y n py px) ∧ (s.drawn x y n).reg 0xF = 0 := by
  classical
  constructor
  · intro py px
    rw [drawn_pixel, h, Bool.false_xor, decide_eq_true_eq]
  · refine (drawn_flag_cases s x y n).resolve_right fun h1 => ?_
    obtain ⟨py, px, -, hon⟩ := (drawn_flag_eq_one s x y n).mp h1
    exact Bool.false_ne_true ((h py px).symm.trans hon)

/-- The first draw changes no register or memory that the second draw's fault condition reads. -/
theorem faultOf_drw_drawn (s : State) (x y n : Nibble) :
    faultOf (.drw x y n) (s.drawn x y n) = faultOf (.drw x y n) s := rfl

/-- Settles O39: the second draw inverts the same pixels again; after CLS there is no pixel that is on, to invert or to hit. -/
theorem drawTwiceRestoresTheScreen : Obligations.DrawTwiceRestoresTheScreen := by
  refine ⟨?twice, ?afterClear, ?clearTwice⟩
  case twice =>
    intro x y n s t u hx hy hf ht hu
    obtain rfl : t = s.drawn x y n := eq_effect hf ht
    obtain rfl : u = (s.drawn x y n).drawn x y n := eq_effect ((faultOf_drw_drawn s x y n).trans hf) hu
    exact ⟨drawn_drawn_fb hx hy n, drawn_flag_eq_one s x y n, drawn_drawn_flag_eq_one hx hy n⟩
  case afterClear =>
    intro x y n s t u ht hf hu
    obtain rfl : u = t.drawn x y n := eq_effect hf hu
    exact drawn_on_clear (pixel_of_exec_cls ht) x y n
  case clearTwice =>
    intro s t u ht hu
    exact Frame.ext_get fun py px => (pixel_of_exec_cls hu py px).trans (pixel_of_exec_cls ht py px).symm

/-! ### The redraw mark (R146) -/

theorem effect_redraw_of_set (i : Instr) {s : State} (h : s.redraw = true) : (effect i s).redraw = true := by
  cases i with
  | cls | drw => rfl
  | _ => exact h

theorem step_redraw_of_set {s t : State} (h : s.redraw = true) (hstep : step s = .next t) : t.redraw = true := by
  rcases step_cases hstep with ⟨-, rfl⟩ | ⟨-, i, -, hexec⟩ | ⟨-, -, rfl⟩
  · exact h
  · rcases exec_cases hexec with ⟨c, info, -, rfl⟩ | ⟨-, rfl⟩
    · exact h
    · exact effect_redraw_of_set i h
  · exact h

/-- Settles O40: a CLS and a completed DRW set the mark, and of the events that are none of the three no one clears it. -/
theorem redrawMarkIsSetByDrawing : Obligations.RedrawMarkIsSetByDrawing := by
  refine ⟨fun s t h => ?cls, fun x y n s t hf h => ?drw, fun font e s t hset h hclear => ?event⟩
  case cls => rw [eq_of_exec_cls h]; rfl
  case drw => rw [eq_effect hf h]; rfl
  case event =>
    have hkept : t.redraw ≠ true := fun h1 => Bool.false_ne_true (hclear.symm.trans h1)
    cases e with
    | ackRedraw => exact .inl rfl
    | reset cfg => exact .inr (.inl ⟨cfg, rfl⟩)
    | loadProgram bytes => exact .inr (.inr ⟨bytes, rfl⟩)
    | step => exact absurd (step_redraw_of_set hset h) hkept
    | tick =>
      cases h
      exact absurd hset hkept
    | setKey k pressed =>
      cases h
      exact absurd ((setKeyEvent_redraw k pressed s).trans hset) hkept

end Sys2Proof.Machine
end

section
/-! Register instructions, key tests and timers (spec 41_alu.md, 42_keypad_and_timers.md). -/
namespace Sys2Proof.Machine

/-! ### Instructions that write one register (R100, R101, R104, R123) -/

/-- Writing one register and going on: what the answer holds, whatever is read off its registers. -/
theorem setReg_advance_answers {r : Result} {s : State} {x : Nibble} {b : Byte} (hr : r = .next (s.setReg x b).advance) :
    ∃ t, r = .next t ∧ s.OnlyRegsAndPc t ∧ t.pc = s.pc + 2 ∧ ∀ k, t.reg k = if k = x then b else s.reg k :=
  ⟨(s.setReg x b).advance, hr, ⟨rfl, fun _ => rfl⟩, rfl, fun k => State.reg_setReg s x k b⟩

/-- The same with the registers as numbers. -/
theorem setReg_advance_answers_toNat {r : Result} {s : State} {x : Nibble} {b : Byte} {n : Nat}
    (hr : r = .next (s.setReg x b).advance) (hb : b.toNat = n) :
    ∃ t, r = .next t ∧ s.OnlyRegsAndPc t ∧ t.pc = s.pc + 2 ∧
      ∀ k, (t.reg k).toNat = if k = x then n else (s.reg k).toNat := by
  obtain ⟨t, ht, hframe, hpc, hreg⟩ := setReg_advance_answers hr
  exact ⟨t, ht, hframe, hpc, fun k => by rw [hreg, apply_ite BitVec.toNat, hb]⟩

/-- Settles O19: each word decodes to its instruction, which writes `V[x]` alone. -/
theorem loadsAndAddImmediate : Obligations.LoadsAndAddImmediate := fun x y kk s =>
  ⟨⟨decodeWord_encodeWord (.ldImm x kk), setReg_advance_answers rfl⟩,
   ⟨decodeWord_encodeWord (.addImm x kk), setReg_advance_answers_toNat rfl (BitVec.toNat_add (s.reg x) kk)⟩,
   ⟨decodeWord_encodeWord (.ldReg x y), setReg_advance_answers rfl⟩⟩

/-! ### Instructions that write a result and then the flag (R103, R105 to R112) -/

theorem setResultAndFlag_advance_answers {r : Result} {s : State} {x : Nibble} {result flag : Byte}
    (hr : r = .next (s.setResultAndFlag x result flag).advance) :
    ∃ t, r = .next t ∧ s.OnlyRegsAndPc t ∧ t.pc = s.pc + 2 ∧
      ∀ k, t.reg k = if k = 0xF then flag else if k = x then result else s.reg k :=
  ⟨(s.setResultAndFlag x result flag).advance, hr, ⟨rfl, fun _ => rfl⟩, rfl,
    fun k => State.reg_setResultAndFlag s x k result flag⟩

theorem setResultAndFlag_advance_answers_toNat {r : Result} {s : State} {x : Nibble} {result flag : Byte} {n f : Nat}
    (hr : r = .next (s.setResultAndFlag x result flag).advance) (hn : result.toNat = n) (hf : flag.toNat = f) :
    ∃ t, r = .next t ∧ s.OnlyRegsAndPc t ∧ t.pc = s.pc + 2 ∧
      ∀ k, (t.reg k).toNat = if k = 0xF then f else if k = x then n else (s.reg k).toNat := by
  obtain ⟨t, ht, hframe, hpc, hreg⟩ := setResultAndFlag_advance_answers hr
  exact ⟨t, ht, hframe, hpc, fun k => by rw [hreg, apply_ite BitVec.toNat, apply_ite BitVec.toNat, hn, hf]⟩

/-- Settles O20: the flag byte is 0. -/
theorem logicForcesFlagZero : Obligations.LogicForcesFlagZero := fun x y s =>
  ⟨⟨decodeWord_encodeWord (.or x y), setResultAndFlag_advance_answers (s := s) rfl⟩,
   ⟨decodeWord_encodeWord (.and x y), setResultAndFlag_advance_answers (s := s) rfl⟩,
   ⟨decodeWord_encodeWord (.xor x y), setResultAndFlag_advance_answers (s := s) rfl⟩⟩

theorem carryFlag_toNat (a b : Byte) : (carryFlag a b).toNat = if a.toNat + b.toNat > 255 then 1 else 0 := by
  rw [carryFlag, flagOf_toNat]
  exact if_congr decide_eq_true_iff rfl rfl

theorem notBorrowFlag_toNat (a b : Byte) : (notBorrowFlag a b).toNat = if a.toNat ≥ b.toNat then 1 else 0 := by
  rw [notBorrowFlag, flagOf_toNat]
  exact if_congr decide_eq_true_iff rfl rfl

theorem sub_toNat (a b : Byte) : (a - b).toNat = (a.toNat + 256 - b.toNat) % 256 := by
  have := b.isLt
  rw [BitVec.toNat_sub]
  omega

/-- Settles O21: the flag byte is the carry. -/
theorem addWritesCarry : Obligations.AddWritesCarry := fun x y s =>
  ⟨decodeWord_encodeWord (.addReg x y),
    setResultAndFlag_advance_answers_toNat rfl (BitVec.toNat_add (s.reg x) (s.reg y)) (carryFlag_toNat _ _)⟩

/-- Settles O22: the flag byte is the not-borrow, in either direction. -/
theorem subtractionsWriteNotBorrow : Obligations.SubtractionsWriteNotBorrow := fun x y s =>
  ⟨⟨decodeWord_encodeWord (.sub x y),
    setResultAndFlag_advance_answers_toNat rfl (sub_toNat (s.reg x) (s.reg y)) (notBorrowFlag_toNat _ _)⟩,
   ⟨decodeWord_encodeWord (.subn x y),
    setResultAndFlag_advance_answers_toNat rfl (sub_toNat (s.reg y) (s.reg x)) (notBorrowFlag_toNat _ _)⟩⟩

theorem shiftSource_toNat (s : State) (x y : Nibble) :
    (s.shiftSource x y).toNat = if s.quirks.shiftQuirk = true then (s.reg y).toNat else (s.reg x).toNat :=
  apply_ite BitVec.toNat _ _ _

theorem shiftRight_one_toNat (b : Byte) : (b >>> 1).toNat = b.toNat / 2 := by
  rw [BitVec.toNat_ushiftRight, Nat.shiftRight_eq_div_pow, pow_one]

theorem shiftLeft_one_toNat (b : Byte) : (b <<< 1).toNat = b.toNat * 2 % 256 := by
  rw [BitVec.toNat_shiftLeft, Nat.shiftLeft_eq, pow_one]

/-- Settles O23: the source is the register the quirk names, and the flag byte its bit shifted out. -/
theorem shiftsTakeTheQuirksSource : Obligations.ShiftsTakeTheQuirksSource := by
  rintro x y s src rfl
  rw [← shiftSource_toNat]
  exact ⟨⟨decodeWord_encodeWord (.shr x y),
      setResultAndFlag_advance_answers_toNat rfl (shiftRight_one_toNat _) (lowBitFlag_toNat _)⟩,
    ⟨decodeWord_encodeWord (.shl x y),
      setResultAndFlag_advance_answers_toNat rfl (shiftLeft_one_toNat _) (highBitFlag_toNat _)⟩⟩

/-! ### RND (R113) -/

/-- Settles O24: `V[x]` is the draw AND `kk`, which has no bit that `kk` lacks. -/
theorem randomAndsAFreeByte : Obligations.RandomAndsAFreeByte := by
  intro x kk s
  have hreg := fun r => State.reg_setReg s x r (Config.rndDraw s.draws &&& kk)
  refine ⟨decodeWord_encodeWord (.rnd x kk), _, rfl, rfl, fun _ => rfl, rfl, hreg, fun b hb => ?_⟩
  refine (congrArg (·.getLsbD b) ((hreg x).trans (if_pos rfl))).trans ?_
  rw [BitVec.getLsbD_and, hb, Bool.and_false]

/-! ### Key tests (R120 to R122, R158) -/

/-- The key code of a register that holds one. -/
theorem setWidth_eq_of_toNat_eq {b : Byte} {k : Nibble} (h : b.toNat = k.toNat) : b.setWidth 4 = k := by
  apply BitVec.eq_of_toNat_eq
  rw [BitVec.toNat_setWidth, h, Nat.mod_eq_of_lt k.isLt]

theorem keyTest_answers {s : State} {b : Byte} {k : Nibble} (pressed : Bool) (h : b.toNat = k.toNat) :
    ∃ t, keyTest s b pressed = .next t ∧ s.OnlyPc t ∧ t.pc = if s.key k = pressed then s.pc + 4 else s.pc + 2 := by
  have hk := k.isLt
  refine skipIf_answers (keyTest_of_le (by omega)) ?_
  rw [setWidth_eq_of_toNat_eq h, beq_iff_eq]

theorem keyTest_raises {s : State} {b : Byte} (pressed : Bool) (h : b.toNat > 15) :
    ∃ t, keyTest s b pressed = .next t ∧ t = { s with fault := .keyIndex, faultInfo := t.faultInfo } ∧
      t.faultInfo.toNat = b.toNat :=
  ⟨_, keyTest_of_gt h, rfl, wordOfByte_toNat b⟩

/-- Settles O26: both words decode, and both instructions are one test with two levels. -/
theorem keyTestsSkipByLevel : Obligations.KeyTestsSkipByLevel := fun x _ =>
  ⟨decodeWord_encodeWord (.skp x), decodeWord_encodeWord (.sknp x),
    fun _ hk => ⟨keyTest_answers true hk, keyTest_answers false hk⟩,
    fun h => ⟨keyTest_raises true h, keyTest_raises false h⟩⟩

/-! ### Timer transfers (R123 to R125) -/

/-- Settles O27: each word decodes to its transfer. -/
theorem timerTransfersMoveOneByte : Obligations.TimerTransfersMoveOneByte := fun x s =>
  ⟨⟨decodeWord_encodeWord (.ldVxDt x), setReg_advance_answers rfl⟩,
   ⟨decodeWord_encodeWord (.ldDtVx x), (s.setDt (s.reg x)).advance, rfl, rfl, fun _ => rfl, rfl, rfl⟩,
   ⟨decodeWord_encodeWord (.ldStVx x), (s.setSt (s.reg x)).advance, rfl, rfl, fun _ => rfl, rfl, rfl, rfl⟩⟩

end Sys2Proof.Machine
end

section
/-! The index register and memory transfers (spec 43_index_and_memory.md R131, R133 to R137; 20_memory.md R54). -/
namespace Sys2Proof.Machine

theorem index_add_toNat (a : Word) (b : Byte) : (a + wordOfByte b).toNat = (a.toNat + b.toNat) % 65536 := by
  rw [BitVec.toNat_add, wordOfByte_toNat]

/-- Settles O31: `I` and a byte are added in 16 bits. -/
theorem addToIndexWraps : Obligations.AddToIndexWraps := fun x s =>
  ⟨decodeWord_encodeWord (.addI x), next_setIndex_advance_frame rfl (index_add_toNat s.i (s.reg x))⟩

/-! ### LD B (R133) -/

/-- Settles O32: inside the memory the three addresses are distinct, and the last write to each is its digit. -/
theorem storeBcdWritesThreeDigits : Obligations.StoreBcdWritesThreeDigits := by
  refine fun x s => ⟨decodeWord_encodeWord (.ldB x), fun h => ?inside, checkBounds_outside⟩
  have h01 : s.dataAddr 0 ≠ s.dataAddr 1 := dataAddr_ne (by omega) (by omega) (by omega)
  have h02 : s.dataAddr 0 ≠ s.dataAddr 2 := dataAddr_ne (by omega) (by omega) (by omega)
  have h12 : s.dataAddr 1 ≠ s.dataAddr 2 := dataAddr_ne (by omega) (by omega) (by omega)
  have hread : ∀ a, (s.digitsStored x).readByte a = _ := storeDigits_read s (s.reg x)
  refine ⟨s.digitsStored x, checkBounds_inside h, rfl, rfl, fun k hk => dataAddr_toNat (by omega), ?_, ?_, ?_, ?_⟩
  · rw [hread, if_neg h02, if_neg h01, if_pos rfl, hundreds_toNat]
  · rw [hread, if_neg h12, if_pos rfl, tens_toNat]
  · rw [hread, if_pos rfl, units_toNat]
  · intro a ha
    rw [hread, if_neg (ha 2 (by omega)), if_neg (ha 1 (by omega)), if_neg (ha 0 (by omega))]

/-! ### The bulk transfers (R134, R135) -/

theorem dumped_readByte {s : State} {x : Nibble} (h : s.i.toNat + x.toNat ≤ 0xFFF) {k : Nat} (hk : k ≤ x.toNat) :
    (s.dumped x).readByte (s.dataAddr k) = s.reg (BitVec.ofNat 4 k) := by
  have hx := x.isLt
  exact storeRegs_read_inside (by omega) (by omega) (by omega)

/-- Settles O33: inside the memory the dump is the effect; else it is the raise. -/
theorem registerDumpStoresZeroToX : Obligations.RegisterDumpStoresZeroToX := by
  refine fun x s => ⟨decodeWord_encodeWord (.dump x), fun h => ?inside, checkBounds_outside⟩
  refine ⟨s.dumped x, checkBounds_inside h, rfl, rfl, indexAfterBulk_toNat s x,
    fun k hk => ⟨dataAddr_toNat (by omega), dumped_readByte h hk⟩, fun a ha => ?_⟩
  exact storeRegs_read_outside fun j hj => ha j (Nat.le_of_lt_succ hj)

theorem exec_load_inside {s : State} {x : Nibble} (h : s.i.toNat + x.toNat ≤ 0xFFF) :
    exec (.load x) s = .next (s.loaded x) :=
  exec_of_faultOf_none (i := .load x) (if_neg (Nat.not_lt_of_le h))

/-- Settles O34: inside the memory the load is the effect; else it is the raise. -/
theorem registerLoadReadsZeroToX : Obligations.RegisterLoadReadsZeroToX := fun x s =>
  ⟨decodeWord_encodeWord (.load x),
    fun h => ⟨s.loaded x, exec_load_inside h, rfl, fun _ => rfl, rfl, indexAfterBulk_toNat s x, loaded_reg s x⟩,
    checkBounds_outside⟩

/-- A dump that answers from inside the memory answers its effect. -/
theorem eq_dumped {s t : State} {x : Nibble} (h : s.i.toNat + x.toNat ≤ 0xFFF) (ht : exec (.dump x) s = .next t) :
    t = s.dumped x :=
  eq_effect (i := .dump x) (if_neg (Nat.not_lt_of_le h)) ht

/-! ### Dump and load, dump and fetch (R137, R54) -/

/-- Settles O35: the load reads each register back from the address the dump wrote it to. -/
theorem dumpThenLoadRestores : Obligations.DumpThenLoadRestores := by
  intro x a s t u ha hfit hdump hkept
  have hinside : s.i.toNat + x.toNat ≤ 0xFFF := by omega
  have hu : ((u.setIndex (addrOperand a)).advance).i.toNat = s.i.toNat := (addrOperand_toNat a).trans ha.symm
  refine ⟨(u.setIndex (addrOperand a)).advance, _, rfl, exec_load_inside (by omega), fun r hr => ?_⟩
  have haddr : ((u.setIndex (addrOperand a)).advance).dataAddr r.toNat = s.dataAddr r.toNat := by
    rw [State.dataAddr, State.dataAddr, State.dataSum, State.dataSum, hu]
  have hplace : (s.dataAddr r.toNat).toNat = s.i.toNat + r.toNat := dataAddr_toNat (by omega)
  calc ((u.setIndex (addrOperand a)).advance.loaded x).reg r
      = u.readByte (s.dataAddr r.toNat) := by rw [loaded_reg, if_pos hr, State.dataByte, haddr]; rfl
    _ = t.readByte (s.dataAddr r.toNat) := hkept _ (by omega) (by omega)
    _ = s.reg r := by rw [eq_dumped hinside hdump, dumped_readByte hinside hr, BitVec.ofNat_toNat, BitVec.setWidth_eq]

/-- Settles O36: the two bytes that the next fetch reads are where the dump put the two registers. -/
theorem storedWordIsFetchedNext : Obligations.StoredWordIsFetchedNext := by
  intro x k s t hk hfit hpc hdump
  have hx := x.isLt
  have hnext : t.pc.toNat = s.i.toNat + k := by
    rw [eq_dumped hfit hdump, hpc]
    have : s.pc.toNat + 2 < 65536 := by omega
    exact (BitVec.toNat_add s.pc 2).trans (Nat.mod_eq_of_lt this)
  have hread : ∀ j ≤ x.toNat, t.readByte (BitVec.ofNat 12 (s.i.toNat + j)) = s.reg (BitVec.ofNat 4 j) := fun j hj => by
    rw [eq_dumped hfit hdump]
    exact dumped_readByte hfit hj
  rw [State.fetchWord, hnext, hread k (by omega), Nat.add_assoc, hread (k + 1) hk]

end Sys2Proof.Machine
end

section
/-! Reachable states in which what the source leaves unenforced fails (spec 10_state.md R26, 90_conflicts.md C1, C2). -/
namespace Sys2Proof.Machine

/-- Settles O52: JP 301 reaches an odd `pc`, JP 000 a `pc` below 200, and CALL 200 at 200, run sixteen times, fills the stack. -/
theorem unenforcedInvariantsFail : Obligations.UnenforcedInvariantsFail :=
  ⟨⟨[.loadProgram (encode (.jp 0x301)), .step], _, rfl, by decide, by decide⟩,
   ⟨[.loadProgram (encode (.jp 0x000)), .step], _, rfl, by decide, by decide⟩,
   ⟨.loadProgram (encode (.call 0x200)) :: List.replicate 16 .step, _, rfl, by decide, by decide⟩⟩

end Sys2Proof.Machine
end
